-- ==== Sys2Proof/Word.lean ====
section
/-! DEFINITION. The plain value types of the FC-4 and its unit of time. -/

namespace Sys2Proof

/-- A byte of a frame or of the configuration image (R2, R180). -/
abbrev Byte := BitVec 8

/-- A converter code, 0 to 65,535 (R144). -/
abbrev Code := BitVec 16

/-- A station number, 0 to 15: station 0 is the sequencer, 1 to 15 are heads (00, R179). -/
abbrev Station := Fin 16

/-- A frame's sequence number, 0 to 15; adding one is modulo 16 (R14). -/
abbrev Seq := Fin 16

/-- Time in ticks of 50 ns: the largest unit in which both a bit (0.25 µs, R1) and a timing count
(0.1 µs, R152) are whole. DESIGN CHOICE, log 1, safe. -/
abbrev Time := Nat

/-- `n` microseconds in ticks. -/
def us (n : Nat) : Time := 20 * n

/-- `n` milliseconds in ticks. -/
def ms (n : Nat) : Time := 20000 * n

end Sys2Proof
end

