-- ==== Sys2Proof/Syntax.lean ====
section
/-! DEFINITION. The rows of spec/opcode_table.json as constructors of `Instr`, and the values they carry. -/

namespace Sys2Proof

/-- The face of the board a head works on (00). -/
inductive Side | top | bottom
  deriving DecidableEq, Repr

/-- A position in the machine frame, in µm (00). -/
structure Pos where
  x : Nat
  y : Nat
  deriving DecidableEq, Repr

/-- A box of four inclusive bounds, in µm (00). -/
structure Box where
  xmin : Nat
  xmax : Nat
  ymin : Nat
  ymax : Nat
  deriving DecidableEq, Repr

/-- The four shared measurement lines. -/
inductive Line | ml1 | ml2 | ml3 | ml4
  deriving DecidableEq, Repr

/-- 0 to 2 lines with their roles FORCE and RETURN (R22, R40); also the lines byte of a frame. -/
structure LineRoles where
  force : Option Line
  ret   : Option Line
  deriving DecidableEq, Repr

/-- The station's mode (R178). -/
inductive Mode | starting | cfgFault | idle | running | pausing | paused | stopped
  deriving DecidableEq, Repr

/-- The stop reason, none outside STOPPED (R178). -/
inductive StopReason
  | noReason | halt | overload | axisFault | linkFault | linkCutoff | dupStation | crowded
  deriving DecidableEq, Repr

/-- The kind of a touch (R67). -/
inductive TouchKind | cont | iso | capr
  deriving DecidableEq, Repr

/-- The role of a head in a paired touch (R67). -/
inductive Role | source | sense
  deriving DecidableEq, Repr

/-- The twelve outcomes of a touch (R165). -/
inductive TouchOutcome
  | pass | failLow | failHigh | sensed | noContact | contactLost | overload
  | areaTimeout | partnerTimeout | partnerAbandoned | partnerLost | mismatch
  deriving DecidableEq, Repr

/-- The eleven assigned frame kinds, in the order of their codes (R3). -/
inductive FrameKind
  | halt | release | ask | claim | touch | pair | command | beacon | status | load | result
  deriving DecidableEq, Repr

/-- The two axes with external drives (R110). -/
inductive Axis | x | y
  deriving DecidableEq, Repr

/-- One report of an axis drive: position, IN_POSITION (true) or MOVING, FAULT (R110). -/
structure AxisReport where
  pos        : Nat
  inPosition : Bool
  fault      : Bool
  deriving DecidableEq, Repr

/-- What the carriage shows at a reset: both axes as their drives report them, Z as measured (R109). -/
structure CarriageReading where
  x : AxisReport
  y : AxisReport
  z : Nat
  deriving DecidableEq, Repr

/-- The strap pins as they stand when a reset ends (R179). -/
structure Straps where
  number : Station
  side   : Side
  deriving DecidableEq, Repr

/-- The time passed since the row before, and how long ago the line ended its last long dominant run (R19, log 25). -/
structure QuietLine where
  dt    : Time
  quiet : Time
  deriving DecidableEq, Repr

/-- Sender and sequence number of a frame heard (R2). -/
structure Header where
  sender : Station
  seq    : Seq
  deriving DecidableEq, Repr

/-- The payload of a BEACON (R35, layout of chapter 11). -/
structure BeaconBody where
  side       : Side
  mode       : Mode
  stop       : StopReason
  reach      : Option Box
  held       : Option Box
  lines      : LineRoles
  frontTag   : Nat
  landed     : Bool
  atHaven    : Bool
  blocked    : Bool
  waiting    : Bool
  listCount  : Nat
  queueCount : Nat
  askTarget  : Nat
  deriving DecidableEq, Repr

/-- The payload of a CLAIM: the claim box, the whole line set and the pair tag (R25). -/
structure ClaimBody where
  side  : Side
  box   : Box
  lines : LineRoles
  tag   : Nat
  deriving DecidableEq, Repr

/-- The payload of a RELEASE: the whole held state after it, AT_HAVEN and the answer (R25, R49). -/
structure ReleaseBody where
  side     : Side
  atHaven  : Bool
  box      : Box
  lines    : LineRoles
  answerTo : Nat
  deriving DecidableEq, Repr

/-- The payload of an ASK (R53); its target stands in the envelope. -/
structure AskBody where
  side : Side
  box  : Box
  deriving DecidableEq, Repr

/-- The payload of a TOUCH (R121). -/
structure TouchBody where
  side   : Side
  role   : Option Role
  pad    : Pos
  height : Nat
  tag    : Nat
  deriving DecidableEq, Repr

/-- One touch record of a LOAD as its 22 bytes give it, before R196 decodes it. -/
structure LoadRecord where
  touchId         : Nat
  kindCode        : Nat
  roleCode        : Nat
  hintPresent     : Bool
  approachPresent : Bool
  partner         : Nat
  tag             : Nat
  pad             : Pos
  low             : Nat
  high            : Nat
  hint            : Nat
  approach        : Nat
  deriving DecidableEq, Repr

/-- The commands of station 0 that a STATUS names (R175); LOAD is reported beside the seven. -/
inductive Command | start | pause | clear | purge | park | query | reset | load
  deriving DecidableEq, Repr

/-- The rows of spec/opcode_table.json. Every row carries `dt`, the time passed since the row before
it (log 1); the other operands are what the outside tells the part in that row. -/
inductive Instr
  /-- R181: the supply rises from below its working level; `reading` is R109's "as reported, as measured". -/
  | powerOn (dt : Time) (reading : CarriageReading)
  /-- R181: the supply has settled; the straps are read if the reset ends here. -/
  | powerOnSettled (dt : Time) (straps : Straps)
  /-- R181: the reset input is asserted. -/
  | resetLineAsserted (dt : Time) (reading : CarriageReading)
  /-- R181: the reset input is released; the straps are read if the reset ends here. -/
  | resetLineReleased (dt : Time) (straps : Straps)
  /-- R180: 5,000 µs after the reset the image is not whole. -/
  | imageReadTimeout (dt : Time)
  /-- R180: the last image byte is read; `image` is the 32 bytes. -/
  | imageJudged (dt : Time) (image : List Byte)
  /-- R129: both axes are stopped after a reset. -/
  | stopWaitEnd (dt : Time)
  /-- R20: the join timer expires. -/
  | joinWindowEnd (dt : Time)
  /-- R7: an idle instant; `rivals` are the contention values of the stations that begin with this one (R6). -/
  | offer (dt : Time) (rivals : List Byte)
  /-- R16: a bit fault in the own frame; `passed` says whether the frame then received passes the check. -/
  | bitFault (dt : Time) (passed : Bool)
  /-- R27: a heard frame fails the check. -/
  | checkFailure (dt : Time)
  /-- R15: the own copy of a completed frame fails. -/
  | ownCopyFail (dt : Time)
  /-- R47: the own CLAIM completes with a passing own copy. -/
  | claimGranted (dt : Time)
  /-- R50: the own RELEASE completes with a passing own copy. -/
  | releaseCompleted (dt : Time)
  /-- R53: the own ASK completes with a passing own copy. -/
  | askSent (dt : Time)
  /-- R11: the own TOUCH completes with a passing own copy. -/
  | touchSent (dt : Time)
  /-- R97: the own PAIR frame completes with a passing own copy. -/
  | pairSent (dt : Time)
  /-- R15: the own BEACON completes with a passing own copy. -/
  | beaconSent (dt : Time)
  /-- R173: the own STATUS completes with a passing own copy. -/
  | statusSent (dt : Time)
  /-- R169: the own RESULT completes with a passing own copy. -/
  | resultSent (dt : Time)
  /-- R17: a passing frame carries the station's own number and was not completed by it. -/
  | dupStationFrame (dt : Time)
  /-- R18: the own transmit output has been dominant for 300 µs. -/
  | transmitterCutOff (dt : Time)
  /-- R19: the line has been dominant for 300 µs with the own output recessive. -/
  | linkDownEntry (dt : Time)
  /-- R19: the wait after the last long dominant run is over; the line is quiet since that run ended (log 25). -/
  | linkDownEnd (line : QuietLine)
  /-- R12: the beacon timer expires. -/
  | beaconTimer (dt : Time)
  /-- R24: a BEACON is heard. -/
  | beaconReceived (dt : Time) (hdr : Header) (body : BeaconBody)
  /-- R25: a CLAIM is heard. -/
  | claimReceived (dt : Time) (hdr : Header) (body : ClaimBody)
  /-- R54: a RELEASE is heard. -/
  | releaseReceived (dt : Time) (hdr : Header) (body : ReleaseBody)
  /-- R56: an ASK is heard, with its target. -/
  | askReceived (dt : Time) (hdr : Header) (target : Station) (body : AskBody)
  /-- R134: a TOUCH is heard. -/
  | touchReceived (dt : Time) (hdr : Header) (body : TouchBody)
  /-- R96: a PAIR JOINED is heard. -/
  | joinedReceived (dt : Time) (hdr : Header) (target : Station) (tag : Nat)
  /-- R98: a PAIR DONE is heard. -/
  | doneReceived (dt : Time) (hdr : Header) (target : Station) (tag : Nat)
  /-- R103: a PAIR ABANDON is heard; the reason byte is the sequencer's (chapter 11). -/
  | abandonReceived (dt : Time) (hdr : Header) (target : Station) (reason : Nat) (tag : Nat)
  /-- R25: a STATUS is heard. -/
  | statusHeard (dt : Time) (hdr : Header)
  /-- R25: a RESULT is heard. -/
  | resultHeard (dt : Time) (hdr : Header)
  /-- R3: a frame of kind 11 to 15 is heard. -/
  | unassignedFrame (dt : Time) (hdr : Header)
  /-- R3: a frame is heard whose sender is not valid for its kind. -/
  | invalidSenderFrame (dt : Time) (hdr : Header)
  /-- R195: a passing frame is heard that is not well formed. -/
  | malformedFrame (dt : Time) (hdr : Header)
  /-- R28: 8,000 µs have passed since `peer` was last heard. -/
  | peerSilence (dt : Time) (peer : Station)
  /-- R34: the rest-until of `line` is reached. -/
  | lineRestExpiry (dt : Time) (line : Line)
  /-- R46: the 50 µs timer. -/
  | claimRecheckTimer (dt : Time)
  /-- R55: 500 ms since blocked-since. -/
  | claimGiveUp (dt : Time)
  /-- R62: the yield shadow kept for `asker` expires. -/
  | yieldShadowExpiry (dt : Time) (asker : Station)
  /-- R69: a LOAD is heard, with its target and its one or two records. -/
  | loadReceived (dt : Time) (target : Station) (records : List LoadRecord)
  /-- R111: the conditions of a move hold. -/
  | moveCommand (dt : Time)
  /-- R110: the drive of `axis` sends a report. -/
  | axisReport (dt : Time) (axis : Axis) (report : AxisReport)
  /-- R112: both axes have reported IN_POSITION at their targets. -/
  | moveEnd (dt : Time)
  /-- R115: both axes stand after a STOP on entry to STOPPED. -/
  | carriageStopped (dt : Time)
  /-- R117: the conditions of a descent hold. -/
  | descentBegin (dt : Time)
  /-- R117: Z reaches the fast target. -/
  | fastTargetReached (dt : Time)
  /-- R118: the contact filter has counted three asserted samples. -/
  | touchdown (dt : Time)
  /-- R119: the sample at the search limit does not confirm contact. -/
  | noContact (dt : Time)
  /-- R120: three deasserted samples while landed. -/
  | contactLost (dt : Time)
  /-- R123: the comparator reads the coil current `current`, in mA. -/
  | overloadLatch (dt : Time) (current : Nat)
  /-- R122: Z reaches 0. -/
  | liftEnd (dt : Time)
  /-- R102: the rendezvous timer expires. -/
  | rendezvousTimeout (dt : Time)
  /-- R144: a converter sample in ZEROING or INTEGRATING. -/
  | converterSample (dt : Time) (code : Code)
  /-- R147: settle sample a. -/
  | settleSampleA (dt : Time) (code : Code)
  /-- R147: settle sample b and the check. -/
  | settleCheck (dt : Time) (code : Code)
  /-- R152: the probe voltage reaches 1.000 V during a timing. -/
  | timingCrossing (dt : Time)
  /-- R152: the timing count reaches 65,535. -/
  | timingTimeout (dt : Time)
  /-- R153: the 200 µs discharge between timings ends. -/
  | betweenDischargeEnd (dt : Time)
  /-- R157: the final discharge ends. -/
  | finalDischargeEnd (dt : Time)
  /-- R161: an abort discharge ends. -/
  | abortDischargeEnd (dt : Time)
  /-- R163: the reset discharge ends. -/
  | resetDischargeEnd (dt : Time)
  /-- R168: the oldest queued result reaches an age of 20 ms. -/
  | resultAgeTrigger (dt : Time)
  /-- R190: a HALT from station 0; its target is not read. -/
  | halt (dt : Time) (target : Station)
  /-- R187: COMMAND START. -/
  | start (dt : Time) (target : Station)
  /-- R188: COMMAND PAUSE. -/
  | pause (dt : Time) (target : Station)
  /-- R193: COMMAND CLEAR. -/
  | clear (dt : Time) (target : Station)
  /-- R85: COMMAND PURGE. -/
  | purge (dt : Time) (target : Station)
  /-- R125: COMMAND PARK. -/
  | park (dt : Time) (target : Station)
  /-- R186: COMMAND QUERY. -/
  | query (dt : Time) (target : Station)
  /-- R186: COMMAND RESET; the straps and the carriage as the reset it causes finds them. -/
  | reset (dt : Time) (target : Station) (straps : Straps) (reading : CarriageReading)
  /-- R187: a COMMAND whose code has no meaning. -/
  | unknownCommand (dt : Time) (target : Station) (code : Byte)
  /-- R118, R120: the contact input is sampled. -/
  | contactInputSample (dt : Time) (asserted : Bool)
  deriving DecidableEq, Repr

end Sys2Proof
end

