-- ==== Sys2Proof/Decode.lean ====
section
/-! DEFINITION. The command that a word of the table spells. No row of spec/opcode_table.json has bits: the part
has no register window and takes its rows from frames, timers and pins (00), so no word spells a row. -/

namespace Sys2Proof

/-- No row of the table has bits, so no word spells one. -/
def decodeTableWord (nbits w : Nat) : Option Instr :=
  let _ := nbits
  let _ := w
  none

end Sys2Proof
end

