-- ==== Sys2Proof/Config.lean ====
section
/-! DEFINITION. What the configuration image fixes for one carriage (R180). The spec leaves no value
undefined, so there is no free value here. -/

namespace Sys2Proof

/-- The fields of a valid configuration image, in µm, mA and fF (R180). -/
structure ImageConfig where
  reach         : Box
  fx            : Nat
  fy            : Nat
  clearance     : Nat
  haven         : Pos
  nominal       : Nat
  margin        : Nat
  depth         : Nat
  overloadLevel : Nat
  /-- Overload behaviour: HOLD (true) or AUTO (false). -/
  hold          : Bool
  samples       : Nat
  stray         : Nat
  deriving DecidableEq, Repr

/-- What `Fc4.geo` answers while the configuration values are absent; no rule reads it then. -/
def ImageConfig.blank : ImageConfig :=
  ⟨⟨0, 0, 0, 0⟩, 0, 0, 0, ⟨0, 0⟩, 0, 0, 0, 0, false, 1, 0⟩

end Sys2Proof
end

