-- ==== Sys2Proof/Machine/State.lean ====
section
/-! DEFINITION. The state of one FC-4, block by block, the queue of waiting rows, and the state after reset. -/

namespace Sys2Proof.Machine

/-- No row of the FC-4 stops the part: the spec's faults are modes, stop reasons and effects on state
(R16, R114, R185, R192). So the type has no constructor, which is safe. -/
inductive Fault
  deriving DecidableEq, Repr

/-- The refusals of a step. -/
inductive Refusal
  /-- Raised by an arm of `exec` whose row has no meaning yet; no arm is such. Safe. -/
  | notModelled (mnemonic : String)
  deriving DecidableEq, Repr

/-! ### Link Interface -/

/-- What a pending RELEASE states (R49). -/
structure ReleaseFill where
  box     : Box
  lines   : LineRoles
  answer  : Nat
  atHaven : Bool
  deriving DecidableEq, Repr

/-- What a pending ASK states (R53). -/
structure AskFill where
  target : Station
  box    : Box
  deriving DecidableEq, Repr

/-- What a pending CLAIM states (R40). -/
structure ClaimFill where
  box   : Box
  lines : LineRoles
  tag   : Nat
  deriving DecidableEq, Repr

/-- What a pending TOUCH states (R121). -/
structure TouchFill where
  pad    : Pos
  height : Nat
  tag    : Nat
  role   : Option Role
  deriving DecidableEq, Repr

/-- The operations of a PAIR frame. -/
inductive PairOp | joined | done | abandon
  deriving DecidableEq, Repr

/-- What a pending PAIR frame states: operation, reason (ABANDON only), tag, partner (R95, R97, R101). -/
structure PairFill where
  op     : PairOp
  reason : Option TouchOutcome
  tag    : Nat
  target : Station
  deriving DecidableEq, Repr

/-- What the own frame on the line carries, as far as its completion needs it (R15). -/
inductive OnAir
  | release (fill : ReleaseFill)
  | ask (fill : AskFill)
  | claim (fill : ClaimFill)
  | touch (fill : TouchFill)
  | pair (fill : PairFill)
  | beacon
  | status
  | result (records : Nat)
  deriving DecidableEq, Repr

/-- The station's own frame on the line. -/
structure OwnFrame where
  content   : OnAir
  seq       : Seq
  /-- The frame's bytes, envelope and check included (R2, R4, R195). -/
  bytes     : List Byte
  since     : Time
  /-- Its owner has withdrawn it since its start bit (R8). -/
  withdrawn : Bool
  /-- Its slot has been filled again since its start bit (R8). -/
  refilled  : Bool
  deriving DecidableEq, Repr

/-- The join window's timer (R20). -/
inductive JoinTimer
  | closed
  /-- The window is open and LINK_DOWN has stopped its timer. -/
  | held
  | running (due : Time)
  deriving DecidableEq, Repr

/-- The Link Interface. -/
structure Link where
  release   : Option ReleaseFill
  ask       : Option AskFill
  claim     : Option ClaimFill
  touch     : Option TouchFill
  pair      : Option PairFill
  beacon    : Bool
  status    : Bool
  result    : Bool
  onLine    : Option OwnFrame
  /-- The sequence counter (R14). -/
  seq       : Seq
  /-- The own-check failure count (R16). -/
  fails     : Nat
  cutOff    : Bool
  /-- LINK_DOWN in force, with the instant at which the last dominant run reached 300 µs (R19). -/
  linkDown  : Option Time
  join      : JoinTimer
  beaconDue : Option Time
  /-- The line is idle no sooner than this: 3 µs after the last dominant bit the station knows of (R1, log 39). -/
  idleFrom  : Time
  deriving DecidableEq, Repr

/-! ### Peer View -/

inductive Presence | present | unsure | silent
  deriving DecidableEq, Repr

/-- The frozen box (absent meaning "none") and frozen lines of a SILENT record (R28). -/
structure Frozen where
  box   : Option Box
  lines : List Line
  deriving DecidableEq, Repr

/-- A peer record (R22). -/
structure PeerRecord where
  presence  : Presence
  side      : Option Side
  mode      : Option Mode
  reach     : Option Box
  held      : Option Box
  lines     : LineRoles
  frontTag  : Nat
  landed    : Bool
  atHaven   : Bool
  lastSeq   : Seq
  lastHeard : Time
  frozen    : Option Frozen
  deriving DecidableEq, Repr

/-- The rest-until times of ML1 to ML4 (R33). -/
structure LineRests where
  ml1 : Option Time
  ml2 : Option Time
  ml3 : Option Time
  ml4 : Option Time
  deriving DecidableEq, Repr

/-- The Peer View: records keyed by station number, keys rising (R21), and the line table's rests. -/
structure View where
  peers : List (Nat × PeerRecord)
  rests : LineRests
  deriving DecidableEq, Repr

/-! ### Reservation Unit -/

inductive ClaimKind | move | line
  deriving DecidableEq, Repr

/-- Who asked for a claim (R40). -/
inductive Requester | touchList | park | yield | pairUnit
  deriving DecidableEq, Repr

/-- A pending claim (R40), with the target of the move it is for. -/
structure Claim where
  kind   : ClaimKind
  box    : Box
  lines  : LineRoles
  tag    : Nat
  who    : Requester
  target : Pos
  deriving DecidableEq, Repr

/-- The outstanding ask (R40). -/
structure Ask where
  target : Station
  box    : Box
  sent   : Option Time
  deriving DecidableEq, Repr

/-- A yield shadow (R62). -/
structure Shadow where
  asker  : Nat
  box    : Box
  expiry : Time
  deriving DecidableEq, Repr

/-- The moments of R49 at which a RELEASE falls due. -/
inductive ReleaseCause
  | moveEnd
  | arrival (answer : Nat)
  | atHaven (answer : Nat)
  | yieldGivenUp (answer : Nat)
  | linesDropped
  | strayGrant (lines : LineRoles)
  | carriageStands
  | axisFaultCleared
  deriving DecidableEq, Repr

/-- The Reservation Unit (R40). -/
structure Resv where
  heldBox      : Option Box
  heldLines    : LineRoles
  claim        : Option Claim
  blockedSince : Option Time
  /-- The earliest next tick of the 50 µs timer (R46, log 13). -/
  recheckDue   : Option Time
  ask          : Option Ask
  /-- The received-ask set, keyed by asker, keys rising. -/
  asks         : List (Nat × Box)
  yieldDue     : Bool
  /-- The yield fell due on a paired touch in FINISHING whose lift had ended (R58, log 14). -/
  yieldAtClose : Bool
  shadows      : List Shadow
  /-- A RELEASE that fell due while the own CLAIM is on the line (R50). -/
  waiting      : Option ReleaseCause
  deriving DecidableEq, Repr

/-! ### Touch List and Result Queue -/

/-- The measurement flags of a result (R166). -/
structure MeasFlags where
  unsettled   : Bool
  offsetClamp : Bool
  rangeLimit  : Bool
  saturated   : Bool
  deriving DecidableEq, Repr

/-- A result record (R164). -/
structure ResultRecord where
  id      : Nat
  kind    : TouchKind
  outcome : TouchOutcome
  /-- Value and range used, with PASS, FAIL_LOW and FAIL_HIGH only. -/
  value   : Option (Nat × Nat)
  flags   : MeasFlags
  height  : Option Nat
  tag     : Option Nat
  deriving DecidableEq, Repr

/-- Role, partner and pair tag of a CONT or ISO entry (R67). -/
structure PairTerms where
  role    : Role
  partner : Station
  tag     : Nat
  deriving DecidableEq, Repr

inductive EntryState | queued | active | finished
  deriving DecidableEq, Repr

/-- A touch entry (R67). -/
structure Entry where
  id         : Nat
  pad        : Pos
  kind       : TouchKind
  terms      : Option PairTerms
  low        : Nat
  high       : Nat
  hint       : Option Nat
  approach   : Option Nat
  deferCount : Nat
  st         : EntryState
  held       : Option ResultRecord
  deriving DecidableEq, Repr

/-- The stages of a touch (R77). -/
inductive Stage | claim | move | descent | measure | lift
  deriving DecidableEq, Repr

/-- A completed measurement as its owner keeps it (R157). -/
structure Measurement where
  value : Nat
  range : Nat
  flags : MeasFlags
  deriving DecidableEq, Repr

/-- The touch record (R77); the entry is named by its id. -/
structure TouchRecord where
  entry   : Nat
  stage   : Stage
  outcome : Option TouchOutcome
  height  : Option Nat
  meas    : Option Measurement
  deriving DecidableEq, Repr

/-- The Touch List. -/
structure Work where
  list    : List Entry
  touch   : Option TouchRecord
  /-- WAITING_RESULTS (R74). -/
  waiting : Bool
  deriving DecidableEq, Repr

inductive RefusalCode | full | duplicateId | duplicateTag | unreachable | badRecord
  deriving DecidableEq, Repr

inductive CommandOutcome | accepted | busy | notClearable
  deriving DecidableEq, Repr

/-- A queued result with the time it joined (R167). -/
structure Queued where
  record : ResultRecord
  joined : Time
  deriving DecidableEq, Repr

/-- The Result Queue. -/
structure Results where
  queue    : List Queued
  refusals : List (Nat × RefusalCode)
  overflow : Nat
  last     : Option (Command × CommandOutcome)
  deriving DecidableEq, Repr

/-! ### Pair Unit -/

/-- The states of the rendezvous record but NONE (R88). -/
inductive RdvState
  | heading | landedWait | linking | joinedWait | measuring | holding | finishing
  deriving DecidableEq, Repr

/-- The rendezvous record while it is open (R88). -/
structure Rendezvous where
  state       : RdvState
  tag         : Nat
  partner     : Station
  role        : Role
  kind        : TouchKind
  timer       : Option Time
  forceLine   : Option Line
  retLine     : Option Line
  /-- The connections of this role are made. -/
  connected   : Bool
  joinedHeard : Bool
  /-- The meeting went ahead on a matching note (R93). -/
  roleChecked : Bool
  outcome     : Option TouchOutcome
  /-- The ending is caused by a frame of the partner, so no ABANDON is sent (R101). -/
  quiet       : Bool
  ending      : Option PairOp
  /-- The ending frame has completed with a passing own copy. -/
  endingDone  : Bool
  deriving DecidableEq, Repr

/-- A touch note: tag and role of a head heard landing (R89). -/
structure TouchNote where
  tag  : Nat
  role : Option Role
  deriving DecidableEq, Repr

/-- The Pair Unit: the rendezvous record, absent meaning state NONE, and the notes keyed by sender. -/
structure Pairing where
  rdv   : Option Rendezvous
  notes : List (Nat × TouchNote)
  deriving DecidableEq, Repr

/-! ### Motion Unit -/

inductive AxisState | standing | moving | stopping
  deriving DecidableEq, Repr

/-- The last command sent to an axis drive (R110). -/
inductive AxisCommand
  | none
  | moveTo (target : Nat)
  | stop
  deriving DecidableEq, Repr

/-- What one axis last reported, and its fault (R109). -/
structure AxisRec where
  pos        : Nat
  inPosition : Bool
  fault      : Bool
  /-- The drive has reported since the last MOVE was sent to it (R111, R112, log 21). -/
  answered   : Bool
  deriving DecidableEq, Repr

inductive Purpose | touch | park | yield
  deriving DecidableEq, Repr

/-- The move record (R109). -/
structure Move where
  p       : Pos
  q       : Pos
  purpose : Purpose
  deriving DecidableEq, Repr

/-- A permitted move: its target and purpose; its start is the position at the command (R111). -/
structure Permitted where
  q       : Pos
  purpose : Purpose
  deriving DecidableEq, Repr

inductive ZState | raised | fastDescent | search | landed | lifting
  deriving DecidableEq, Repr

/-- The descent record (R109): pad, predicted height, fast target, search limit. -/
structure Descent where
  pad        : Pos
  predicted  : Nat
  fastTarget : Nat
  limit      : Nat
  deriving DecidableEq, Repr

/-- The Motion Unit (R109). -/
structure Motion where
  axis         : AxisState
  ax           : AxisRec
  ay           : AxisRec
  outX         : AxisCommand
  outY         : AxisCommand
  move         : Option Move
  stopFrom     : Option Pos
  permitted    : Option Permitted
  faultSeen    : Bool
  zState       : ZState
  z            : Nat
  /-- The pad and predicted height handed over on entry to DESCENT (R80, R138). -/
  handed       : Option (Pos × Nat)
  descent      : Option Descent
  filter       : Nat
  lostReported : Bool
  nextSample   : Time
  latch        : Bool
  park         : Bool
  /-- A lift has been asked for and waits for the abort's report (R127). -/
  liftWanted   : Bool
  deriving DecidableEq, Repr

/-! ### Height Table -/

/-- A filled cell of the Height Table: count 1 to 7, and height (R130). -/
structure HeightCell where
  count  : Nat
  height : Nat
  deriving DecidableEq, Repr

/-! ### Measurement Unit -/

inductive MeasState
  | idle | zeroing | settling | ranging | integrating | timing | discharging
  deriving DecidableEq, Repr

inductive MeasOwner | touchList | pairUnit
  deriving DecidableEq, Repr

/-- Kind, limits and range hint, latched at the start (R143). -/
structure Latched where
  kind : TouchKind
  low  : Nat
  high : Nat
  hint : Option Nat
  deriving DecidableEq, Repr

/-- The computed result that waits for the end of the final discharge (R156). -/
structure Computed where
  value   : Nat
  range   : Nat
  verdict : TouchOutcome
  deriving DecidableEq, Repr

inductive DischargePurpose | final | between | abort | reset
  deriving DecidableEq, Repr

/-- Purpose and end time of a discharge. -/
structure Discharge where
  purpose : DischargePurpose
  due     : Time
  deriving DecidableEq, Repr

/-- The Measurement Unit's record (R141). -/
structure Meas where
  state       : MeasState
  owner       : Option MeasOwner
  latched     : Option Latched
  k           : Option Nat
  range       : Option Nat
  tried       : List Nat
  zero        : Option Nat
  attempt     : Nat
  sampleA     : Option Nat
  sampleB     : Option Nat
  sum         : Nat
  taken       : Nat
  saturated   : Bool
  flags       : MeasFlags
  computed    : Option Computed
  discharge   : Option Discharge
  /-- The stimulus: off, or on at a range's current. -/
  stimulus    : Option Nat
  forceSw     : Option Line
  retSw       : Option Line
  senseSw     : Option Line
  localIn     : Bool
  dischargeOn : Bool
  /-- The instant of the next converter or settle sample (R144, R147). -/
  sampleDue   : Time
  /-- The start of the timing under way (R152). -/
  timingFrom  : Time
  /-- The range has been accepted: timings are counted ones (R154). -/
  counted     : Bool
  /-- A break asked for during a final discharge (R159). -/
  breakAtEnd  : Bool
  deriving DecidableEq, Repr

/-! ### Mode Control -/

inductive ResetSource | powerOn | resetLine | commanded
  deriving DecidableEq, Repr

inductive Judgement | pending | valid | invalid
  deriving DecidableEq, Repr

/-- A reset in progress (R181): the supply has not settled; the line is asserted; the supply rose during it. -/
structure ResetHold where
  supplyWait : Bool
  line       : Bool
  supplyRose : Bool
  deriving DecidableEq, Repr

/-- Mode Control (R178). -/
structure Ctl where
  mode         : Mode
  reason       : StopReason
  /-- In this stop the reason is or has been AXIS_FAULT (R41, R64). -/
  axisFaulted  : Bool
  source       : ResetSource
  number       : Station
  side         : Side
  config       : Option ImageConfig
  judgement    : Judgement
  startPos     : Option Pos
  dupRecorded  : Bool
  cutRecorded  : Bool
  resetHold    : Option ResetHold
  resetEnded   : Time
  deriving DecidableEq, Repr

/-! ### The part and its queue -/

/-- One FC-4: the clock and the ten blocks. -/
structure Fc4 where
  now     : Time
  link    : Link
  view    : View
  resv    : Resv
  work    : Work
  pair    : Pairing
  motion  : Motion
  /-- The Height Table: its filled cells, keyed by column + 32 × row, keys rising. -/
  heights : List (Nat × HeightCell)
  meas    : Meas
  results : Results
  ctl     : Ctl
  deriving DecidableEq, Repr

/-- The machine: the part, and the rows that wait for it, first in, first out. -/
structure State where
  pending : List Instr
  part    : Fc4
  deriving DecidableEq, Repr

/-! ### After reset -/

def MeasFlags.none : MeasFlags := ⟨false, false, false, false⟩

def LineRoles.none : LineRoles := ⟨Option.none, Option.none⟩

/-- R8, R14, R16, R18, R19, R20, R12. -/
def Link.afterReset : Link :=
  { release := none, ask := none, claim := none, touch := none, pair := none
    beacon := false, status := false, result := false, onLine := none, seq := 0, fails := 0
    cutOff := false, linkDown := none, join := .closed, beaconDue := none, idleFrom := 0 }

/-- R38. -/
def View.afterReset : View := { peers := [], rests := ⟨none, none, none, none⟩ }

/-- R40. -/
def Resv.afterReset : Resv :=
  { heldBox := none, heldLines := LineRoles.none, claim := none, blockedSince := none
    recheckDue := none, ask := none, asks := [], yieldDue := false, yieldAtClose := false, shadows := []
    waiting := none }

/-- R87. -/
def Work.afterReset : Work := { list := [], touch := none, waiting := false }

/-- R108. -/
def Pairing.afterReset : Pairing := { rdv := none, notes := [] }

/-- R109, R129: STOP sent, the axes and Z as they are read. -/
def Motion.afterReset (r : CarriageReading) : Motion :=
  { axis := .stopping, ax := ⟨r.x.pos, r.x.inPosition, r.x.fault, true⟩
    ay := ⟨r.y.pos, r.y.inPosition, r.y.fault, true⟩
    outX := .stop, outY := .stop, move := none, stopFrom := none, permitted := none, faultSeen := false
    zState := if r.z = 0 then .raised else .lifting
    z := r.z, handed := none, descent := none, filter := 0, lostReported := false, nextSample := 0
    latch := false, park := false, liftWanted := false }

/-- R141, R163: the reset discharge, ending at `due`. -/
def Meas.afterReset (due : Time) : Meas :=
  { state := .discharging, owner := none, latched := none, k := none, range := none, tried := []
    zero := none, attempt := 0, sampleA := none, sampleB := none, sum := 0, taken := 0
    saturated := false, flags := MeasFlags.none, computed := none, discharge := some ⟨.reset, due⟩
    stimulus := none, forceSw := none, retSw := none, senseSw := none, localIn := false
    dischargeOn := true, sampleDue := 0, timingFrom := 0, counted := false, breakAtEnd := false }

/-- R177. -/
def Results.afterReset : Results := { queue := [], refusals := [], overflow := 0, last := none }

/-- R178, with the reset source, what is in progress of the reset, and the strap values last read. -/
def Ctl.afterReset (source : ResetSource) (resetHold : Option ResetHold) (number : Station) (side : Side)
    (ended : Time) : Ctl :=
  { mode := .starting, reason := .noReason, axisFaulted := false, source, number, side, config := none
    judgement := .pending, startPos := none, dupRecorded := false, cutRecorded := false
    resetHold, resetEnded := ended }

/-- Every block at its after-reset values (R181). -/
def Fc4.afterReset (now : Time) (reading : CarriageReading) (ctl : Ctl) : Fc4 :=
  { now, link := .afterReset, view := .afterReset, resv := .afterReset, work := .afterReset
    pair := .afterReset, motion := .afterReset reading, heights := [], meas := .afterReset (now + us 1000)
    results := .afterReset, ctl }

/-- What the carriage shows in `State.reset`; DESIGN CHOICE, log 5, unsafe. -/
def readingAtReset : CarriageReading := ⟨⟨0, true, false⟩, ⟨0, true, false⟩, 0⟩

/-- The machine right after the supply has risen: every block at its after-reset values (R181), the
power-on reset still in progress because the supply has not settled (log 4), no row waiting. -/
def State.reset : State :=
  { pending := []
    part := .afterReset 0 readingAtReset (.afterReset .powerOn (some ⟨true, false, true⟩) 0 .top 0) }

end Sys2Proof.Machine
end

