-- ==== Sys2Proof/Machine/Keyed.lean ====
section
/-! DEFINITION. Finite tables as lists of key and value with rising keys: equal tables are equal lists. -/

namespace Sys2Proof.Machine

/-- The value kept under `k`. -/
def tableGet {β : Type} (k : Nat) : List (Nat × β) → Option β
  | [] => none
  | (j, v) :: rest => if j = k then some v else tableGet k rest

/-- The table with `v` under `k`. -/
def tablePut {β : Type} (k : Nat) (v : β) : List (Nat × β) → List (Nat × β)
  | [] => [(k, v)]
  | (j, w) :: rest =>
    if k < j then (k, v) :: (j, w) :: rest
    else if j = k then (k, v) :: rest
    else (j, w) :: tablePut k v rest

/-- The table with nothing under `k`. -/
def tableDrop {β : Type} (k : Nat) : List (Nat × β) → List (Nat × β)
  | [] => []
  | (j, w) :: rest => if j = k then tableDrop k rest else (j, w) :: tableDrop k rest

/-- The canonical form: keys strictly rising. -/
def tableSorted {β : Type} (t : List (Nat × β)) : Bool :=
  t.Pairwise (fun a b => a.1 < b.1)

/-- Every value through `f`, under its key. -/
def tableMap {β : Type} (f : β → β) (t : List (Nat × β)) : List (Nat × β) :=
  t.map (fun p => (p.1, f p.2))

end Sys2Proof.Machine
end

