-- ==== Sys2Proof/Machine/Constants.lean ====
section
/-! DEFINITION. The intervals and bounds that the rules fix for every FC-4. -/

namespace Sys2Proof.Machine

/-- R1: the recessive time after which the line is idle. -/
def idleTime : Time := us 3
/-- R1, R5: the start bit of a frame's second byte, the earliest instant at which a heard frame can fail. -/
def earliestFailure : Time := 50
/-- R20. -/
def joinWindow : Time := us 10000
/-- R12. -/
def beaconPeriod : Time := us 2000
/-- R28. -/
def silenceTime : Time := us 8000
/-- R33. -/
def lineRest : Time := us 200
/-- R46. -/
def recheckPeriod : Time := us 50
/-- R53. -/
def askDelay : Time := us 5000
/-- R55. -/
def giveUpTime : Time := ms 500
/-- R60, R62. -/
def shadowTime : Time := ms 50
/-- R92. -/
def rendezvousTime : Time := ms 1500
/-- R180. -/
def imageReadLimit : Time := us 5000
/-- R19. -/
def linkDownWait : Time := us 1000
/-- R144. -/
def converterPeriod : Time := us 100
/-- R147: from sample a to sample b. -/
def settleGap : Time := us 100
/-- R157, R161, R163. -/
def longDischarge : Time := us 1000
/-- R153. -/
def betweenDischarge : Time := us 200
/-- R168. -/
def resultAge : Time := ms 20
/-- R118. -/
def contactPeriod : Time := us 20
/-- The greatest coordinate of the machine frame (00). -/
def coordMax : Nat := 1048575
/-- Maximum descent (00). -/
def zMax : Nat := 40000
/-- R68. -/
def listMax : Nat := 256
/-- R167. -/
def queueMax : Nat := 64
/-- R172. -/
def refusalMax : Nat := 4
/-- R68. -/
def deferMax : Nat := 3
/-- The saturation marker (00). -/
def saturationMarker : Nat := 4294967295

/-- The average of `k` values that sum to `sum`: the nearest integer, halves up (R144). -/
def average (sum k : Nat) : Nat := (sum + k / 2) / k

end Sys2Proof.Machine
end

