-- ==== Sys2Proof/Machine/Geometry.lean ====
section
/-! DEFINITION. Boxes, positions and lines: the tests and constructions of chapters 00 and 03. -/

namespace Sys2Proof.Machine

/-- The whole-frame box (00). -/
def wholeFrame : Box := ⟨0, coordMax, 0, coordMax⟩

/-- Box A overlaps box B; boxes whose edges touch overlap (00). -/
def overlaps (a b : Box) : Bool :=
  decide (a.xmin ≤ b.xmax) && decide (b.xmin ≤ a.xmax) && decide (a.ymin ≤ b.ymax) && decide (b.ymin ≤ a.ymax)

/-- Box A lies inside box B (00). -/
def inside (a b : Box) : Bool :=
  decide (b.xmin ≤ a.xmin) && decide (a.xmax ≤ b.xmax) && decide (b.ymin ≤ a.ymin) && decide (a.ymax ≤ b.ymax)

/-- The bounds of a box are in order (R195). -/
def boxOrdered (b : Box) : Bool := decide (b.xmin ≤ b.xmax) && decide (b.ymin ≤ b.ymax)

/-- The position is allowed under the geometry: its standing box lies inside the reach box (00). -/
def allowed (g : ImageConfig) (p : Pos) : Bool :=
  decide (g.reach.xmin + g.fx + g.clearance ≤ p.x) && decide (p.x + g.fx + g.clearance ≤ g.reach.xmax) &&
  decide (g.reach.ymin + g.fy + g.clearance ≤ p.y) && decide (p.y + g.fy + g.clearance ≤ g.reach.ymax)

/-- The swept box of a straight move from `p` to `q` (00, R39). A lower bound below 0, which no allowed
position gives, is held at 0 (log 11). -/
def sweptBox (g : ImageConfig) (p q : Pos) : Box :=
  { xmin := min p.x q.x - g.fx - g.clearance
    xmax := max p.x q.x + g.fx + g.clearance
    ymin := min p.y q.y - g.fy - g.clearance
    ymax := max p.y q.y + g.fy + g.clearance }

/-- The standing box at `p`: the swept box of the move from `p` to itself (R39). -/
def standingBox (g : ImageConfig) (p : Pos) : Box := sweptBox g p p

/-- `v` lies between `a` and `b`, both included, in either order (R110). -/
def between (a b v : Nat) : Bool := decide (min a b ≤ v) && decide (v ≤ max a b)

/-- ML1 to ML4 in order of number. -/
def allLines : List Line := [.ml1, .ml2, .ml3, .ml4]

/-- The number of a line, 1 to 4. -/
def lineNumber : Line → Nat
  | .ml1 => 1
  | .ml2 => 2
  | .ml3 => 3
  | .ml4 => 4

/-- The line is one of the lines held, in either role. -/
def holdsLine (r : LineRoles) (l : Line) : Bool := decide (r.force = some l) || decide (r.ret = some l)

/-- No line is held. -/
def noLines (r : LineRoles) : Bool := r.force.isNone && r.ret.isNone

/-- The two roles do not name one line (R195). -/
def rolesDistinct (r : LineRoles) : Bool := r.force.isNone || !decide (r.force = r.ret)

/-- The rest-until time of a line (R33). -/
def restOf (r : LineRests) : Line → Option Time
  | .ml1 => r.ml1
  | .ml2 => r.ml2
  | .ml3 => r.ml3
  | .ml4 => r.ml4

/-- The rests with that of `l` set to `t`. -/
def setRest (r : LineRests) (l : Line) (t : Option Time) : LineRests :=
  match l with
  | .ml1 => { r with ml1 := t }
  | .ml2 => { r with ml2 := t }
  | .ml3 => { r with ml3 := t }
  | .ml4 => { r with ml4 := t }

/-- The rests with every line that `dropped` names resting until `t` (R33). -/
def restLines (r : LineRests) (dropped : Line → Bool) (t : Time) : LineRests :=
  allLines.foldl (fun acc l => if dropped l then setRest acc l (some t) else acc) r

end Sys2Proof.Machine
end

