-- ==== Sys2Proof/Machine/Bytes.lean ====
section
/-! DEFINITION. Bytes, bits and the check: the encodings that the layouts of chapter 11 are built from. -/

namespace Sys2Proof.Machine

/-- The byte of a number's low eight bits. -/
def byteOf (n : Nat) : Byte := BitVec.ofNat 8 n

/-- `n` bytes of `v`, least significant byte first (chapter 11). -/
def leBytes : Nat → Nat → List Byte
  | 0, _ => []
  | n + 1, v => byteOf v :: leBytes n (v / 256)

/-- The number that little-endian bytes stand for. -/
def leValue : List Byte → Nat
  | [] => 0
  | b :: rest => b.toNat + 256 * leValue rest

/-- The little-endian field of `len` bytes at offset `at` of a payload. -/
def fieldAt (p : List Byte) (off len : Nat) : Nat := leValue ((p.drop off).take len)

/-- Bit `i` of a number. -/
def bitAt (v i : Nat) : Bool := decide (v / 2 ^ i % 2 = 1)

/-- A flag as bit `i`. -/
def flagBit (b : Bool) (i : Nat) : Nat := if b then 2 ^ i else 0

/-! ### The check (R4) -/

/-- One message bit through the check register. -/
def crcBit (r : BitVec 16) (bit : Bool) : BitVec 16 :=
  if (r.getLsbD 15).xor bit then (r <<< 1) ^^^ 0x1021#16 else r <<< 1

/-- The eight bits of a byte, most significant first (R1, R4). -/
def byteBits (b : Byte) : List Bool :=
  [b.getLsbD 7, b.getLsbD 6, b.getLsbD 5, b.getLsbD 4, b.getLsbD 3, b.getLsbD 2, b.getLsbD 1, b.getLsbD 0]

/-- The check over bytes in sending order, from a register of all ones, with no final inversion. -/
def crc (bytes : List Byte) : BitVec 16 :=
  bytes.foldl (fun r b => (byteBits b).foldl crcBit r) 0xFFFF#16

/-- The two check bytes, low byte first. -/
def crcBytes (bytes : List Byte) : List Byte := leBytes 2 (crc bytes).toNat

/-! ### The line (R1): true is recessive (logic 1), false is dominant (logic 0) -/

/-- A byte as nine line levels: the dominant start bit, then the data bits, most significant first. -/
def sendByte (b : Byte) : List Bool := false :: byteBits b

/-- A frame's bytes back to back. -/
def sendBits : List Byte → List Bool
  | [] => []
  | b :: rest => sendByte b ++ sendBits rest

/-- The byte of eight bits, most significant first. -/
def byteOfBits (b7 b6 b5 b4 b3 b2 b1 b0 : Bool) : Byte :=
  byteOf (flagBit b7 7 + flagBit b6 6 + flagBit b5 5 + flagBit b4 4 + flagBit b3 3 + flagBit b2 2 +
    flagBit b1 1 + flagBit b0 0)

/-- The next byte read from the line; none where its start bit is recessive or the levels end before it
does, which is how a receiver sees a line that has gone idle (R5). -/
def readByte : List Bool → Option (Byte × List Bool)
  | false :: b7 :: b6 :: b5 :: b4 :: b3 :: b2 :: b1 :: b0 :: rest => some (byteOfBits b7 b6 b5 b4 b3 b2 b1 b0, rest)
  | _ => none

/-- The next `n` bytes read from the line. -/
def readBytes : Nat → List Bool → Option (List Byte × List Bool)
  | 0, bits => some ([], bits)
  | n + 1, bits =>
    match readByte bits with
    | none => none
    | some (b, rest) =>
      match readBytes n rest with
      | none => none
      | some (bs, rest') => some (b :: bs, rest')

end Sys2Proof.Machine
end

