-- ==== Sys2Proof/Machine/Layout.lean ====
section
/-! DEFINITION. The byte layouts and codes of chapter 11: every payload as it is sent, and as it is read. -/

namespace Sys2Proof.Machine

/-! ### Codes -/

/-- The kind code of an assigned frame kind (R3). -/
def kindCode : FrameKind → Nat
  | .halt => 0
  | .release => 1
  | .ask => 2
  | .claim => 3
  | .touch => 4
  | .pair => 5
  | .command => 6
  | .beacon => 7
  | .status => 8
  | .load => 9
  | .result => 10

/-- The frame kind of a code; none for 11 to 15 (R3). -/
def kindOfCode (c : Nat) : Option FrameKind :=
  [FrameKind.halt, .release, .ask, .claim, .touch, .pair, .command, .beacon, .status, .load, .result][c]?

def sideCode : Side → Nat
  | .top => 0
  | .bottom => 1

def sideOfBit (b : Bool) : Side := if b then .bottom else .top

def modeCode : Mode → Nat
  | .starting => 0
  | .cfgFault => 1
  | .idle => 2
  | .running => 3
  | .pausing => 4
  | .paused => 5
  | .stopped => 6

/-- The mode of a beacon's mode code, 1 to 6 (R195). -/
def modeOfCode (c : Nat) : Option Mode :=
  [none, some Mode.cfgFault, some .idle, some .running, some .pausing, some .paused, some .stopped][c]?.join

def reasonCode : StopReason → Nat
  | .noReason => 0
  | .halt => 1
  | .overload => 2
  | .axisFault => 3
  | .linkFault => 4
  | .linkCutoff => 5
  | .dupStation => 6
  | .crowded => 7

def reasonOfCode (c : Nat) : Option StopReason :=
  [StopReason.noReason, .halt, .overload, .axisFault, .linkFault, .linkCutoff, .dupStation, .crowded][c]?

def commandCode : Command → Nat
  | .start => 1
  | .pause => 2
  | .clear => 3
  | .purge => 4
  | .park => 5
  | .query => 6
  | .reset => 7
  | .load => 8

def commandOutcomeCode : CommandOutcome → Nat
  | .accepted => 1
  | .busy => 2
  | .notClearable => 3

def resetSourceCode : ResetSource → Nat
  | .powerOn => 1
  | .resetLine => 2
  | .commanded => 3

def refusalCode : RefusalCode → Nat
  | .full => 1
  | .duplicateId => 2
  | .duplicateTag => 3
  | .unreachable => 4
  | .badRecord => 5

def outcomeCode : TouchOutcome → Nat
  | .pass => 1
  | .failLow => 2
  | .failHigh => 3
  | .sensed => 4
  | .noContact => 5
  | .contactLost => 6
  | .overload => 7
  | .areaTimeout => 8
  | .partnerTimeout => 9
  | .partnerAbandoned => 10
  | .partnerLost => 11
  | .mismatch => 12

def touchKindCode : TouchKind → Nat
  | .cont => 1
  | .iso => 2
  | .capr => 3

def roleCode : Option Role → Nat
  | none => 0
  | some .source => 1
  | some .sense => 2

/-- The role of a code 0, 1 or 2 (R195). -/
def roleOfCode (c : Nat) : Option (Option Role) :=
  [none, some Role.source, some .sense][c]?

/-! ### Compound encodings -/

/-- A position: one 40-bit number, x in bits 0 to 19 and y in bits 20 to 39. A coordinate above 1,048,575, which no
rule gives a box, is sent modulo 2^20 (DESIGN CHOICE, log 46). -/
def posBytes (p : Pos) : List Byte := leBytes 5 (p.x % 1048576 + p.y % 1048576 * 1048576)

def posOfValue (v : Nat) : Pos := ⟨v % 1048576, v / 1048576⟩

def posAt (p : List Byte) (off : Nat) : Pos := posOfValue (fieldAt p off 5)

/-- A box: the position (xmin, ymin), then the position (xmax, ymax). -/
def boxBytes (b : Box) : List Byte := posBytes ⟨b.xmin, b.ymin⟩ ++ posBytes ⟨b.xmax, b.ymax⟩

def boxAt (p : List Byte) (off : Nat) : Box :=
  let lo := posAt p off
  let hi := posAt p (off + 5)
  ⟨lo.x, hi.x, lo.y, hi.y⟩

/-- An absent box is sent as zeros (R195). -/
def optBoxBytes : Option Box → List Byte
  | some b => boxBytes b
  | none => leBytes 10 0

def lineCode : Option Line → Nat
  | some l => lineNumber l
  | none => 0

/-- The line of a nibble 0 to 4; none where the nibble has no meaning (R195). -/
def lineOfCode (c : Nat) : Option (Option Line) :=
  [none, some Line.ml1, some .ml2, some .ml3, some .ml4][c]?

/-- The lines byte: the force line in bits 0 to 3, the return line in bits 4 to 7. -/
def linesByte (r : LineRoles) : Byte := byteOf (lineCode r.force + 16 * lineCode r.ret)

/-- The lines of a lines byte, where both nibbles have a meaning and do not name one line (R195). -/
def linesOfValue (v : Nat) : Option LineRoles :=
  match lineOfCode (v % 16), lineOfCode (v / 16) with
  | some f, some r => if rolesDistinct ⟨f, r⟩ then some ⟨f, r⟩ else none
  | _, _ => none

/-! ### Payloads of the head frames -/

def releasePayload (b : ReleaseBody) : List Byte :=
  [byteOf (sideCode b.side + flagBit b.atHaven 1)] ++ boxBytes b.box ++ [linesByte b.lines, byteOf b.answerTo]

/-- A well-formed RELEASE payload (R195). -/
def releaseOfPayload (p : List Byte) : Option ReleaseBody :=
  if p.length = 13 then
    match linesOfValue (fieldAt p 11 1) with
    | some lines =>
      if boxOrdered (boxAt p 1) then
        some ⟨sideOfBit (bitAt (fieldAt p 0 1) 0), bitAt (fieldAt p 0 1) 1, boxAt p 1, lines, fieldAt p 12 1⟩
      else none
    | none => none
  else none

/-- ASK (R195). The layout gives byte 0 its bit 0 alone and does not call bits 1 to 7 reserved; they are sent as 0, and
ignored on reception, as reserved bits are (DEDUCED, log 51). -/
def askPayload (b : AskBody) : List Byte := [byteOf (sideCode b.side)] ++ boxBytes b.box

/-- A well-formed ASK payload (R195); bits 1 to 7 of byte 0 are ignored (DEDUCED, log 51). -/
def askOfPayload (p : List Byte) : Option AskBody :=
  if p.length = 11 ∧ boxOrdered (boxAt p 1) then
    some ⟨sideOfBit (bitAt (fieldAt p 0 1) 0), boxAt p 1⟩
  else none

def claimPayload (b : ClaimBody) : List Byte :=
  [byteOf (sideCode b.side)] ++ boxBytes b.box ++ [linesByte b.lines] ++ leBytes 2 b.tag

def claimOfPayload (p : List Byte) : Option ClaimBody :=
  if p.length = 14 then
    match linesOfValue (fieldAt p 11 1) with
    | some lines =>
      if boxOrdered (boxAt p 1) then
        some ⟨sideOfBit (bitAt (fieldAt p 0 1) 0), boxAt p 1, lines, fieldAt p 12 2⟩
      else none
    | none => none
  else none

def touchPayload (b : TouchBody) : List Byte :=
  [byteOf (sideCode b.side + 2 * roleCode b.role)] ++ posBytes b.pad ++ leBytes 2 b.height ++ leBytes 2 b.tag

def touchOfPayload (p : List Byte) : Option TouchBody :=
  if p.length = 10 then
    match roleOfCode (fieldAt p 0 1 / 2 % 4) with
    | some role =>
      some ⟨sideOfBit (bitAt (fieldAt p 0 1) 0), role, posAt p 1, fieldAt p 6 2, fieldAt p 8 2⟩
    | none => none
  else none

def pairOpCode : PairOp → Nat
  | .joined => 1
  | .done => 2
  | .abandon => 3

/-- PAIR: operation, reason (an outcome code for ABANDON, else 0), tag. -/
def pairPayload (op : PairOp) (reason tag : Nat) : List Byte :=
  [byteOf (pairOpCode op), byteOf reason] ++ leBytes 2 tag

/-- Operation, reason and tag of a well-formed PAIR payload (R195). -/
def pairOfPayload (p : List Byte) : Option (PairOp × Nat × Nat) :=
  if p.length = 4 then
    match [none, some PairOp.joined, some .done, some .abandon][fieldAt p 0 1]?.join with
    | some op => some (op, fieldAt p 1 1, fieldAt p 2 2)
    | none => none
  else none

def beaconPayload (b : BeaconBody) : List Byte :=
  [byteOf (sideCode b.side + flagBit b.landed 1 + flagBit b.atHaven 2 + flagBit b.blocked 3 +
      flagBit b.waiting 4 + flagBit b.reach.isSome 5 + flagBit b.held.isSome 6),
    byteOf (modeCode b.mode), byteOf (reasonCode b.stop)] ++
  optBoxBytes b.reach ++ optBoxBytes b.held ++ [linesByte b.lines] ++ leBytes 2 b.frontTag ++
  leBytes 2 b.listCount ++ [byteOf b.queueCount, byteOf b.askTarget]

/-- A box that its flag says is present; a present box must be ordered (R195). -/
def optBoxAt (p : List Byte) (present : Bool) (off : Nat) : Option (Option Box) :=
  if present then (if boxOrdered (boxAt p off) then some (some (boxAt p off)) else none) else some none

def beaconOfPayload (p : List Byte) : Option BeaconBody :=
  if p.length = 30 then
    let f := fieldAt p 0 1
    match modeOfCode (fieldAt p 1 1), reasonOfCode (fieldAt p 2 1), optBoxAt p (bitAt f 5) 3,
        optBoxAt p (bitAt f 6) 13, linesOfValue (fieldAt p 23 1) with
    | some mode, some stop, some reach, some held, some lines =>
      some { side := sideOfBit (bitAt f 0), mode, stop, reach, held, lines
             frontTag := fieldAt p 24 2, landed := bitAt f 1, atHaven := bitAt f 2, blocked := bitAt f 3
             waiting := bitAt f 4, listCount := fieldAt p 26 2, queueCount := fieldAt p 28 1
             askTarget := fieldAt p 29 1 }
    | _, _, _, _, _ => none
  else none

/-- STATUS (R175): the items in the order of the layout. -/
def statusPayload (last : Option (Command × CommandOutcome)) (mode : Mode) (stop : StopReason)
    (source : ResetSource) (listCount queueCount overflow : Nat) (refusals : List (Nat × RefusalCode)) :
    List Byte :=
  (match last with
    | some (c, o) => [byteOf (commandCode c), byteOf (commandOutcomeCode o)]
    | none => [byteOf 0, byteOf 0]) ++
  [byteOf (modeCode mode), byteOf (reasonCode stop), byteOf (resetSourceCode source)] ++
  leBytes 2 listCount ++ [byteOf queueCount, byteOf overflow, byteOf refusals.length] ++
  refusals.flatMap (fun r => leBytes 2 r.1 ++ [byteOf (refusalCode r.2)])

/-- One result record of a RESULT. -/
def resultRecordBytes (r : ResultRecord) : List Byte :=
  leBytes 2 r.id ++ [byteOf (touchKindCode r.kind), byteOf (outcomeCode r.outcome),
    byteOf (flagBit r.flags.unsettled 0 + flagBit r.flags.offsetClamp 1 + flagBit r.flags.rangeLimit 2 +
      flagBit r.flags.saturated 3 + flagBit r.value.isSome 4 + flagBit r.height.isSome 5)] ++
  (match r.value with
    | some (v, range) => leBytes 4 v ++ [byteOf range]
    | none => leBytes 5 0) ++
  leBytes 2 (r.height.getD 0) ++ leBytes 2 (r.tag.getD 0)

def resultPayload (records : List ResultRecord) : List Byte :=
  byteOf records.length :: records.flatMap resultRecordBytes

/-! ### Payloads from station 0 -/

def loadRecordBytes (r : LoadRecord) : List Byte :=
  leBytes 2 r.touchId ++
  [byteOf (r.kindCode % 8 + 8 * (r.roleCode % 4) + flagBit r.hintPresent 5 + flagBit r.approachPresent 6),
    byteOf r.partner] ++
  leBytes 2 r.tag ++ posBytes r.pad ++ leBytes 4 r.low ++ leBytes 4 r.high ++ [byteOf r.hint] ++
  leBytes 2 r.approach

/-- The touch record of 22 bytes from offset `off` (chapter 11, R196). -/
def loadRecordAt (p : List Byte) (off : Nat) : LoadRecord :=
  let f := fieldAt p (off + 2) 1
  { touchId := fieldAt p off 2, kindCode := f % 8, roleCode := f / 8 % 4, hintPresent := bitAt f 5
    approachPresent := bitAt f 6, partner := fieldAt p (off + 3) 1, tag := fieldAt p (off + 4) 2
    pad := posAt p (off + 6), low := fieldAt p (off + 11) 4, high := fieldAt p (off + 15) 4
    hint := fieldAt p (off + 19) 1, approach := fieldAt p (off + 20) 2 }

def loadPayload (records : List LoadRecord) : List Byte :=
  byteOf records.length :: records.flatMap loadRecordBytes

/-- A LOAD of one or two records, of the proper length (R195). -/
def loadOfPayload (p : List Byte) : Option (List LoadRecord) :=
  if p.length = 23 ∧ fieldAt p 0 1 = 1 then some [loadRecordAt p 1]
  else if p.length = 45 ∧ fieldAt p 0 1 = 2 then some [loadRecordAt p 1, loadRecordAt p 23]
  else none

/-- STATUS: 10 + 3 × n bytes, n from 0 to 4 (R195). -/
def statusWellFormed (p : List Byte) : Bool :=
  decide (fieldAt p 9 1 ≤ 4) && decide (p.length = 10 + 3 * fieldAt p 9 1)

/-- RESULT: 1 + 14 × n bytes, n from 1 to 4 (R195). -/
def resultWellFormed (p : List Byte) : Bool :=
  decide (1 ≤ fieldAt p 0 1) && decide (fieldAt p 0 1 ≤ 4) && decide (p.length = 1 + 14 * fieldAt p 0 1)

/-! ### The envelope -/

/-- The contention value: kind code × 16 + sender (R2). -/
def contentionValue (kind : FrameKind) (sender : Station) : Nat := kindCode kind * 16 + sender.val

/-- Bytes 0 to 2 and the payload (R2). -/
def frameHead (code : Nat) (sender : Station) (seq : Seq) (target : Station) (payload : List Byte) : List Byte :=
  [byteOf (code * 16 + sender.val), byteOf (seq.val * 16 + target.val), byteOf payload.length] ++ payload

/-- A whole frame, its check last (R2, R4). -/
def frameBytes (code : Nat) (sender : Station) (seq : Seq) (target : Station) (payload : List Byte) : List Byte :=
  let head := frameHead code sender seq target payload
  head ++ crcBytes head

/-- How long a frame of payload length `len` occupies the line: (len + 5) × 2.25 µs (R2). -/
def frameTime (len : Nat) : Time := (len + 5) * 45

/-! ### The configuration image (R180, R197) -/

/-- The check over the image's first 30 bytes stands in the last two (R180). -/
def imageChecked (image : List Byte) : Bool :=
  decide (image.length = 32) && decide (image.drop 30 = crcBytes (image.take 30))

/-- k of an integration code 0 to 4 (R197). -/
def samplesOfCode (c : Nat) : Option Nat := [1, 2, 4, 8, 16][c]?

/-- The image's fields, converted to µm and to k (R197); none for an integration code of 5 to 7. -/
def imageFields (image : List Byte) : Option ImageConfig :=
  let o := fieldAt image 25 2
  match samplesOfCode (o / 8192) with
  | some k =>
    some { reach := boxAt image 0, haven := posAt image 10, fx := 10 * fieldAt image 15 2
           fy := 10 * fieldAt image 17 2, clearance := fieldAt image 19 2, nominal := fieldAt image 21 2
           margin := 20 * fieldAt image 23 1, depth := 20 * fieldAt image 24 1
           overloadLevel := o % 4096, hold := bitAt o 12, samples := k, stray := fieldAt image 27 3 }
  | none => none

/-- The range table and the cross-field conditions of R180. -/
def configInRange (g : ImageConfig) : Bool :=
  boxOrdered g.reach && decide (g.reach.xmax ≤ coordMax) && decide (g.reach.ymax ≤ coordMax) &&
  decide (2000 ≤ g.fx) && decide (g.fx ≤ 80000) && decide (2000 ≤ g.fy) && decide (g.fy ≤ 80000) &&
  decide (g.clearance ≤ 20000) && decide (g.haven.x ≤ coordMax) && decide (g.haven.y ≤ coordMax) &&
  decide (g.nominal ≤ zMax) && decide (100 ≤ g.margin) && decide (g.margin ≤ 5000) &&
  decide (200 ≤ g.depth) && decide (g.depth ≤ 5000) &&
  decide (100 ≤ g.overloadLevel) && decide (g.overloadLevel ≤ 3000) &&
  decide (g.samples ∈ [1, 2, 4, 8, 16]) && decide (g.stray ≤ 10000000) &&
  decide (g.reach.xmin + g.fx + g.clearance + g.fx + g.clearance ≤ g.reach.xmax) &&
  decide (g.reach.ymin + g.fy + g.clearance + g.fy + g.clearance ≤ g.reach.ymax) &&
  allowed g g.haven

/-- The configuration values of an image, where it is valid; the check is judged first (R180, R197). -/
def judgeImage (image : List Byte) : Option ImageConfig :=
  if imageChecked image then
    match imageFields image with
    | some g => if configInRange g then some g else none
    | none => none
  else none

end Sys2Proof.Machine
end

