-- ==== Sys2Proof/Machine/Ops.lean ====
section
/-! DEFINITION. Shared operations: how a row acts on the machine, readings of the part, and the transmit slots. -/

namespace Sys2Proof.Machine

/-! ### How a row acts -/

/-- The part with `dt` more time passed. -/
def Fc4.elapse (s : Fc4) (dt : Time) : Fc4 := { s with now := s.now + dt }

/-- A row: `dt` passes, then the row's effect is made; the queue is untouched. -/
def rowEffect (dt : Time) (f : Fc4 → Fc4) (s : State) : Host.Outcome State Fault Refusal :=
  .next { s with part := f (s.part.elapse dt) }

/-- The effect of a row whose own condition is `c`: where it does not hold, the part takes no such step and
nothing changes (DESIGN CHOICE, log 2, safe). -/
def onlyIf (c : Bool) (f : Fc4 → Fc4) (s : Fc4) : Fc4 := if c then f s else s

/-! ### Readings of the part -/

/-- The configured values (absent ones read as blank; no rule reads them then). -/
def Fc4.geo (s : Fc4) : ImageConfig := s.ctl.config.getD ImageConfig.blank

/-- The station's own number (R179). -/
def Fc4.own (s : Fc4) : Station := s.ctl.number

/-- The current position: the positions last reported (R109). -/
def Fc4.here (s : Fc4) : Pos := ⟨s.motion.ax.pos, s.motion.ay.pos⟩

/-- The standing box at the current position. -/
def Fc4.standing (s : Fc4) : Box := standingBox s.geo s.here

/-- The receiver takes frames: no reset is in progress and the station is not strapped 0 (R179, R181). -/
def Fc4.receiving (s : Fc4) : Bool := s.ctl.resetHold.isNone && !decide (s.ctl.number = 0)

/-- A frame of another station can be heard: the own frame is not on the line (R6, log 7). -/
def Fc4.hearing (s : Fc4) : Bool := s.receiving && s.link.onLine.isNone

/-- A heard frame whose bits lasted `span` until now is one that the receiver took: after a reset it waits for the
line to become idle before it takes a dominant bit as a frame's start (R1, R38). -/
def Fc4.hears (s : Fc4) (span : Time) : Bool := s.hearing && decide (s.ctl.resetEnded + idleTime + span ≤ s.now)

/-- A frame has just been on the line, so the line is idle no sooner than 3 µs from now (R1). -/
def Fc4.lineUsed (s : Fc4) : Fc4 := { s with link := { s.link with idleFrom := s.now + idleTime } }

/-- IDLE, RUNNING, PAUSING or PAUSED (R189). -/
def working : Mode → Bool
  | .idle | .running | .pausing | .paused => true
  | _ => false

/-- A move is in progress (R109). -/
def Fc4.moveInProgress (s : Fc4) : Bool := !decide (s.motion.axis = .standing)

/-- The axis is stopped: its last report shows IN_POSITION, or its fault is set (R110). -/
def axisStopped (a : AxisRec) : Bool := a.inPosition || a.fault

/-- Both axes are stopped (R110). -/
def Fc4.bothStopped (s : Fc4) : Bool := axisStopped s.motion.ax && axisStopped s.motion.ay

/-- Either axis has its fault set. -/
def Fc4.anyAxisFault (s : Fc4) : Bool := s.motion.ax.fault || s.motion.ay.fault

/-- The front entry: the first that is not FINISHED (R72). -/
def Fc4.front (s : Fc4) : Option Entry := s.work.list.find? (fun e => !decide (e.st = .finished))

/-- The ACTIVE entry of the touch in progress (R73). -/
def Fc4.activeEntry (s : Fc4) : Option Entry := s.work.list.find? (fun e => decide (e.st = .active))

/-- The result queue has room (R167). -/
def Fc4.queueRoom (s : Fc4) : Bool := decide (s.results.queue.length < queueMax)

/-! ### Transmit slots (R8 to R13) -/

/-- The kind of frame that an own frame on the line is. -/
def OnAir.kind : OnAir → FrameKind
  | .release _ => .release
  | .ask _ => .ask
  | .claim _ => .claim
  | .touch _ => .touch
  | .pair _ => .pair
  | .beacon => .beacon
  | .status => .status
  | .result _ => .result

/-- The own frame on the line is of kind `k`. -/
def Link.sending (l : Link) (k : FrameKind) : Bool :=
  match l.onLine with
  | some f => decide (f.content.kind = k)
  | none => false

/-- A fill of kind `k` that arrives while the slot's frame is on the line takes its place afterwards (R8). -/
def Link.noteRefill (l : Link) (k : FrameKind) : Link :=
  if l.sending k then { l with onLine := l.onLine.map (fun f => { f with refilled := true }) } else l

/-- A withdrawal of kind `k` after the start bit leaves the frame running (R8). -/
def Link.noteWithdrawal (l : Link) (k : FrameKind) : Link :=
  if l.sending k then
    { l with onLine := l.onLine.map (fun f => { f with withdrawn := true, refilled := false }) }
  else l

def Link.fillRelease (l : Link) (f : ReleaseFill) : Link := ({ l with release := some f }).noteRefill .release
def Link.fillAsk (l : Link) (f : AskFill) : Link := ({ l with ask := some f }).noteRefill .ask
def Link.fillClaim (l : Link) (f : ClaimFill) : Link := ({ l with claim := some f }).noteRefill .claim
def Link.fillTouch (l : Link) (f : TouchFill) : Link := ({ l with touch := some f }).noteRefill .touch
def Link.fillPair (l : Link) (f : PairFill) : Link := ({ l with pair := some f }).noteRefill .pair
def Link.fillBeacon (l : Link) : Link := ({ l with beacon := true }).noteRefill .beacon
def Link.fillStatus (l : Link) : Link := ({ l with status := true }).noteRefill .status
/-- The RESULT slot is filled only where it is empty (R13), so never while its frame is on the line. -/
def Link.fillResult (l : Link) : Link := { l with result := true }

def Link.withdrawAsk (l : Link) : Link := ({ l with ask := none }).noteWithdrawal .ask
def Link.withdrawClaim (l : Link) : Link := ({ l with claim := none }).noteWithdrawal .claim
def Link.withdrawPair (l : Link) : Link := ({ l with pair := none }).noteWithdrawal .pair

/-- The slot of kind `k` emptied. -/
def Link.emptySlot (l : Link) : FrameKind → Link
  | .release => { l with release := none }
  | .ask => { l with ask := none }
  | .claim => { l with claim := none }
  | .touch => { l with touch := none }
  | .pair => { l with pair := none }
  | .beacon => { l with beacon := false }
  | .status => { l with status := false }
  | .result => { l with result := false }
  | _ => l

/-- The own frame has left the line without completing (R16, R18): every slot keeps what it holds. -/
def Link.dropFrame (l : Link) : Link := { l with onLine := none }

/-- The own frame on the line is a LINE claim's CLAIM: a MOVE claim's has pair tag 0 (R43, R51). -/
def Link.sendingLineClaim (l : Link) : Bool :=
  match l.onLine.map OwnFrame.content with
  | some (.claim f) => !decide (f.tag = 0)
  | _ => false

/-- The own frame has completed: the counter advances (R14). A passing own copy empties the slot, unless it
was filled again, and clears the failure count (R15); a failing one leaves the slot as its owner left it. -/
def Link.completeFrame (l : Link) (passed : Bool) : Link :=
  match l.onLine with
  | none => l
  | some f =>
    let l1 := { l with onLine := none, seq := l.seq + 1 }
    if passed then
      let l2 := { l1 with fails := 0 }
      if f.refilled then l2 else l2.emptySlot f.content.kind
    else l1

/-- The filled slot with the lowest kind code (R7). -/
def Link.lowestSlot (l : Link) : Option FrameKind :=
  if l.release.isSome then some .release
  else if l.ask.isSome then some .ask
  else if l.claim.isSome then some .claim
  else if l.touch.isSome then some .touch
  else if l.pair.isSome then some .pair
  else if l.beacon then some .beacon
  else if l.status then some .status
  else if l.result then some .result
  else none

/-! ### The link in the part -/

/-- The STATUS slot is filled (R174). -/
def Fc4.fillStatus (s : Fc4) : Fc4 := { s with link := s.link.fillStatus }

/-- The first or a further beacon is filled, and the next falls due 2,000 µs later (R12). -/
def Fc4.fillBeacon (s : Fc4) (due : Time) : Fc4 :=
  { s with link := { s.link.fillBeacon with beaconDue := some (due + beaconPeriod) } }

end Sys2Proof.Machine
end

