-- ==== Sys2Proof/Machine/Flags.lean ====
section
/-! DEFINITION. The flags that the station states of itself in its beacon and its RELEASE frames (R36, R74). -/

namespace Sys2Proof.Machine

/-- AT_HAVEN (R36): no XY move is in progress and the reported position is the haven. -/
def Fc4.atHavenFlag (s : Fc4) : Bool := !s.moveInProgress && decide (s.here = s.geo.haven)

/-- BLOCKED (R36): the Reservation Unit has a blocked-since time. -/
def Fc4.blockedFlag (s : Fc4) : Bool := s.resv.blockedSince.isSome

/-- The condition under which WAITING_RESULTS stands (R74). -/
def Fc4.holdsForResults (s : Fc4) : Bool :=
  decide (s.ctl.mode = .running) && s.work.touch.isNone && s.front.isSome && !s.resv.yieldDue && !s.queueRoom

/-- WAITING_RESULTS set or cleared as its condition stands (R74). -/
def Fc4.refreshWaiting (s : Fc4) : Fc4 := { s with work := { s.work with waiting := s.holdsForResults } }

/-- The front tag of the own beacon (R35): of a paired front entry, in RUNNING and PAUSING. -/
def Fc4.frontTag (s : Fc4) : Nat :=
  if s.ctl.mode = .running ∨ s.ctl.mode = .pausing then
    match s.front with
    | some e => (e.terms.map PairTerms.tag).getD 0
    | none => 0
  else 0

/-- The landed flag of the own beacon (R35). -/
def Fc4.landedFlag (s : Fc4) : Bool := decide (s.motion.zState = .landed)

/-- The own beacon's payload as the state stands (R35 to R37). -/
def Fc4.beaconBody (s : Fc4) : BeaconBody :=
  if s.ctl.mode = .cfgFault then
    { side := s.ctl.side, mode := .cfgFault, stop := .noReason, reach := none, held := none
      lines := LineRoles.none, frontTag := 0, landed := false, atHaven := false, blocked := false
      waiting := false, listCount := 0, queueCount := 0, askTarget := 0 }
  else
    { side := s.ctl.side, mode := s.ctl.mode, stop := s.ctl.reason, reach := some s.geo.reach
      held := s.resv.heldBox, lines := s.resv.heldLines, frontTag := s.frontTag, landed := s.landedFlag
      atHaven := s.atHavenFlag, blocked := s.blockedFlag, waiting := s.work.waiting
      listCount := s.work.list.length, queueCount := s.results.queue.length
      askTarget := ((s.resv.ask.map (fun a => a.target.val)).getD 0) }

/-- The payload of the own STATUS as the state stands (R175). -/
def Fc4.statusBytes (s : Fc4) : List Byte :=
  statusPayload s.results.last s.ctl.mode s.ctl.reason s.ctl.source s.work.list.length
    s.results.queue.length s.results.overflow s.results.refusals

end Sys2Proof.Machine
end

