-- ==== Sys2Proof/Machine/HeightTable.lean ====
section
/-! DEFINITION. The Board Height Table (chapter 07): cells, samples and predictions. -/

namespace Sys2Proof.Machine

/-- The key of column i and row j. -/
def cellKey (i j : Nat) : Nat := i + 32 * j

/-- The cell of a position (R131). -/
def cellOf (p : Pos) : Nat := cellKey (p.x / 32768) (p.y / 32768)

/-- A sample `h` blended into a cell, an absent cell being the empty one (R132). -/
def blend (cell : Option HeightCell) (h : Nat) : HeightCell :=
  match cell with
  | none => ⟨1, h⟩
  | some c =>
    if c.count < 7 then ⟨c.count + 1, (c.height * c.count + h + (c.count + 1) / 2) / (c.count + 1)⟩
    else ⟨7, (c.height * 7 + h + 4) / 8⟩

/-- A sample taken into the cell of its pad (R132). -/
def takeSample (t : List (Nat × HeightCell)) (pad : Pos) (h : Nat) : List (Nat × HeightCell) :=
  tablePut (cellOf pad) (blend (tableGet (cellOf pad) t) h) t

/-- Two indices of one axis differ by at most 1. -/
def adjacent (a b : Nat) : Bool := decide (a ≤ b + 1) && decide (b ≤ a + 1)

/-- The cell of key `k` is a neighbour of the cell in column `i` and row `j` (R131). -/
def isNeighbour (i j k : Nat) : Bool :=
  adjacent (k % 32) i && adjacent (k / 32) j && !decide (k = cellKey i j)

/-- The heights of the filled neighbours of the cell of `p` (R131). -/
def neighbourHeights (t : List (Nat × HeightCell)) (p : Pos) : List Nat :=
  (t.filter (fun c => isNeighbour (p.x / 32768) (p.y / 32768) c.1)).map (fun c => c.2.height)

/-- The predicted height at `p` (R137). -/
def predict (t : List (Nat × HeightCell)) (nominal : Nat) (p : Pos) : Nat :=
  match tableGet (cellOf p) t with
  | some c => c.height
  | none =>
    match neighbourHeights t p with
    | [] => nominal
    | hs => (hs.sum + hs.length / 2) / hs.length

/-- The conditions under which a peer's TOUCH gives a sample (R134). -/
def Fc4.takesPeerSample (s : Fc4) (b : TouchBody) : Bool :=
  decide (b.side = s.ctl.side) && decide (b.height ≤ zMax) && decide (b.pad.x ≤ coordMax) &&
  decide (b.pad.y ≤ coordMax) && !decide (s.ctl.mode = .starting)

/-- A peer's TOUCH as the table takes it (R134). -/
def Fc4.peerSample (s : Fc4) (b : TouchBody) : Fc4 :=
  if s.takesPeerSample b then { s with heights := takeSample s.heights b.pad b.height } else s

end Sys2Proof.Machine
end

