-- ==== Sys2Proof/Machine/Measuring.lean ====
section
/-! DEFINITION. The Measurement Unit (chapter 08): starting, settling, ranging, the arithmetic of resistance and
capacitance, discharges and switches, as operations on its record. -/

namespace Sys2Proof.Machine

/-! ### Figures of the ranges -/

/-- Resistance ranges run from 0 to 5, capacitance ranges from 0 (c0) to 2 (c2) (R146, R151). -/
def lastRange : TouchKind → Nat
  | .capr => 2
  | _ => 5

/-- The stimulus current of a range, in nA (R146, R151). -/
def stimulusCurrent : TouchKind → Nat → Nat
  | .capr, r => 1000 * 10 ^ r
  | _, r => 10000000 / 10 ^ r

/-- The settle interval of a resistance range (R146). -/
def settleInterval (r : Nat) : Time :=
  if r ≤ 2 then us 200 else if r = 3 then us 500 else if r = 4 then us 2000 else us 8000

/-- Samples a and b agree (R147). -/
def settled (a b : Nat) : Bool := decide (max a b - min a b ≤ max a b / 256 + 4)

/-- The class of a reading. -/
inductive ReadingClass | over | under | inRange
  deriving DecidableEq, Repr

/-- The class of the reading b of a resistance range (R148); 65,535 is above 60,000. -/
def classifyReading (b : Nat) : ReadingClass :=
  if 60000 < b then .over else if b < 3000 then .under else .inRange

/-- The class of a ranging timing, none being a timeout (R153). -/
def classifyTiming : Option Nat → ReadingClass
  | none => .over
  | some t => if t < 1000 then .under else .inRange

/-- The range wanted after a reading of range `r`, where it lies within 0 to `last` (R148, R153). -/
def wantedRange (last r : Nat) : ReadingClass → Option Nat
  | .over => if r < last then some (r + 1) else none
  | .under => if 0 < r then some (r - 1) else none
  | .inRange => none

/-- The range to try next: the wanted one, where it has not been tried (R148). -/
def nextRange (last r : Nat) (tried : List Nat) (c : ReadingClass) : Option Nat :=
  (wantedRange last r c).filter (fun w => !decide (w ∈ tried))

/-- Value and flags that the arithmetic gives. -/
structure Arithmetic where
  value       : Nat
  offsetClamp : Bool
  saturated   : Bool
  deriving DecidableEq, Repr

/-- The resistance value in centiohms (R150). -/
def resistance (n z r : Nat) : Arithmetic :=
  if n = 65535 then ⟨saturationMarker, false, true⟩
  else if z ≤ n then ⟨((n - z) * 10 ^ r + 1) / 3, false, false⟩
  else ⟨(0 * 10 ^ r + 1) / 3, true, false⟩

/-- The capacitance value in femtofarads (R155). -/
def capacitance (t c stray : Nat) : Arithmetic :=
  if t = 65535 then ⟨saturationMarker, false, true⟩
  else if stray ≤ 100 * 10 ^ c * t then ⟨100 * 10 ^ c * t - stray, false, false⟩
  else ⟨0, true, false⟩

/-- The verdict (R156). -/
def verdictOf (low high value : Nat) : TouchOutcome :=
  if value < low then .failLow else if high < value then .failHigh else .pass

/-- The mean of the phase, or 65,535 where a sample of it was saturated (R144, R149, R154). -/
def phaseMean (sum k : Nat) (saturated : Bool) : Nat := if saturated then 65535 else average sum k

/-- A range joins the tried-range set (R143, R146, R152). -/
def addTried (r : Nat) (tried : List Nat) : List Nat := if r ∈ tried then tried else tried ++ [r]

/-! ### The record -/

/-- The number of samples or timings of a phase. -/
def Meas.samples (m : Meas) : Nat := m.k.getD 1

/-- The current range. -/
def Meas.rangeNow (m : Meas) : Nat := m.range.getD 0

/-- The latched kind. -/
def Meas.kindNow (m : Meas) : TouchKind := (m.latched.map Latched.kind).getD .cont

/-- The unit goes to SETTLING at range `r` with its stimulus on (R146); older settle samples leave the record (log 43). -/
def Meas.goSettling (m : Meas) (r : Nat) (now : Time) : Meas :=
  { m with state := .settling, range := some r, stimulus := some r, tried := addTried r m.tried, attempt := 0
           sampleA := none, sampleB := none, flags := { m.flags with unsettled := false }
           sampleDue := now + settleInterval r }

/-- A timing begins at range `r` (R152). -/
def Meas.goTiming (m : Meas) (r : Nat) (now : Time) : Meas :=
  { m with state := .timing, range := some r, stimulus := some r, tried := addTried r m.tried
           discharge := none, dischargeOn := false, timingFrom := now }

/-- A discharge begins: stimulus off, discharge switch on (R142). -/
def Meas.goDischarging (m : Meas) (p : DischargePurpose) (due : Time) : Meas :=
  { m with state := .discharging, stimulus := none, discharge := some ⟨p, due⟩, dischargeOn := true }

/-- The start range (R143). -/
def startRange (kind : TouchKind) (hint : Option Nat) : Nat :=
  match hint with
  | some h => h
  | none => if kind = .iso then 5 else 0

/-- A measurement is started by its owner (R143). -/
def Meas.begin (m : Meas) (owner : MeasOwner) (l : Latched) (now : Time) : Meas :=
  let m1 := { m with owner := some owner, latched := some l, flags := MeasFlags.none, tried := []
                     saturated := false, computed := none, sum := 0, taken := 0, zero := none, attempt := 0
                     sampleA := none, sampleB := none, counted := false, breakAtEnd := false }
  match l.kind with
  | .capr => ({ m1 with localIn := true }).goTiming (startRange l.kind l.hint) now
  | _ => { m1 with state := .zeroing, range := some (startRange l.kind l.hint), sampleDue := now + converterPeriod }

/-- The value is computed and judged, and the final discharge begins (R149, R154, R156, R157). -/
def Meas.conclude (m : Meas) (a : Arithmetic) (now : Time) : Meas :=
  let verdict := (m.latched.map (fun l => verdictOf l.low l.high a.value)).getD .pass
  { m.goDischarging .final (now + longDischarge) with
      flags := { m.flags with offsetClamp := a.offsetClamp, saturated := a.saturated }
      computed := some ⟨a.value, m.rangeNow, verdict⟩, sum := 0, taken := 0 }

/-- A converter sample in ZEROING or INTEGRATING (R144, R145, R149). -/
def Meas.converterSample (m : Meas) (code : Nat) (now : Time) : Meas :=
  let sum := m.sum + code
  let taken := m.taken + 1
  let m1 := { m with sum, taken, sampleDue := now + converterPeriod }
  match m.state with
  | .zeroing =>
    if taken < m.samples then m1
    else ({ m1 with zero := some (average sum m.samples), sum := 0, taken := 0 }).goSettling m.rangeNow now
  | .integrating =>
    let saturated := m.saturated || decide (code = 65535)
    let m2 := { m1 with saturated }
    if taken < m.samples then m2
    else m2.conclude (resistance (phaseMean sum m.samples saturated) (m.zero.getD 0) m.rangeNow) now
  | _ => m

/-- RANGING on the reading b (R148): a new range is settled, or the current one accepted. -/
def Meas.rangeOn (m : Meas) (b : Nat) (now : Time) : Meas :=
  let c := classifyReading b
  match nextRange 5 m.rangeNow m.tried c with
  | some r => m.goSettling r now
  | none =>
    { m with state := .integrating, sum := 0, taken := 0, saturated := false
             flags := { m.flags with rangeLimit := !decide (c = ReadingClass.inRange) }, sampleDue := now + converterPeriod }

/-- Settle sample a is taken, and b follows 100 µs later (R147). An older b leaves the record (log 43). -/
def Meas.takeA (m : Meas) (code : Nat) (now : Time) : Meas :=
  { m with sampleA := some code, sampleB := none, sampleDue := now + settleGap }

/-- Settle sample b is taken and checked (R147). At a disagreement that a further attempt follows, a leaves the record
(log 43). -/
def Meas.checkB (m : Meas) (code : Nat) (now : Time) : Meas :=
  let m1 := { m with sampleB := some code }
  if settled (m.sampleA.getD 0) code then m1.rangeOn code now
  else if m.attempt < 4 then
    { m1 with attempt := m.attempt + 1, sampleA := none, sampleDue := now + settleInterval m.rangeNow }
  else ({ m1 with flags := { m.flags with unsettled := true } }).rangeOn code now

/-- The count of the timing under way: one per 0.1 µs (R152). -/
def Meas.timingCount (m : Meas) (now : Time) : Nat := (now - m.timingFrom) / 2

/-- A timing ends, at a crossing with its count or as a timeout (R152 to R154). A wanted range becomes the current range
here, at the classification, and not at the start of its first timing (DESIGN CHOICE, log 44). -/
def Meas.endTiming (m : Meas) (t : Option Nat) (stray : Nat) (now : Time) : Meas :=
  if m.counted then
    let sum := m.sum + t.getD 65535
    let saturated := m.saturated || t.isNone
    let m1 := { m with sum, taken := m.taken + 1, saturated }
    if m.taken + 1 < m.samples then m1.goDischarging .between (now + betweenDischarge)
    else m1.conclude (capacitance (phaseMean sum m.samples saturated) m.rangeNow stray) now
  else
    let c := classifyTiming t
    match nextRange 2 m.rangeNow m.tried c with
    | some r => ({ m with range := some r }).goDischarging .between (now + betweenDischarge)
    | none =>
      ({ m with counted := true, sum := 0, taken := 0, saturated := false
                flags := { m.flags with rangeLimit := !decide (c = ReadingClass.inRange) } }).goDischarging
        .between (now + betweenDischarge)

/-- The three line switches open (R159, R160). -/
def Meas.openLines (m : Meas) : Meas := { m with forceSw := none, retSw := none, senseSw := none }

/-- Every switch but the discharge switch opens (R161). -/
def Meas.openAll (m : Meas) : Meas := { m.openLines with localIn := false }

/-- The record goes to IDLE with the discharge switch off (R157, R161, R163). -/
def Meas.goIdle (m : Meas) : Meas :=
  { m with state := .idle, owner := none, latched := none, discharge := none, dischargeOn := false
           stimulus := none, breakAtEnd := false }

/-- The abort's effect on the record with the stimulus already off (R161); in IDLE every switch opens at once, and so in
a reset discharge, in which no measurement is in hand (log 48). -/
def Meas.abortState (m : Meas) (now : Time) : Meas :=
  match m.state, m.discharge with
  | .idle, _ => m.openAll
  | .discharging, some d =>
    match d.purpose with
    | .between => { m with discharge := some ⟨.abort, now + longDischarge⟩, flags := MeasFlags.none, sum := 0, taken := 0 }
    | .final => { m with computed := none, flags := MeasFlags.none }
    | .reset => m.openAll
    | .abort => m
  | _, _ =>
    { m.goDischarging .abort (now + longDischarge) with
        flags := MeasFlags.none, sum := 0, taken := 0, zero := none, sampleA := none, sampleB := none }

/-- An abort: the stimulus goes off at that instant (R142), and the record is left as R161 says. -/
def Meas.abort (m : Meas) (now : Time) : Meas := ({ m with stimulus := none }).abortState now

/-- The abort has been carried out: every switch is open and the record is IDLE. -/
def Meas.abortDone (m : Meas) : Meas := m.openAll.goIdle

/-- The discharge under way has purpose `p`. -/
def Meas.purposeIs (m : Meas) (p : DischargePurpose) : Bool :=
  decide (m.state = .discharging) && decide (m.discharge.map Discharge.purpose = some p)

/-- The end time of the discharge under way has been reached. -/
def Meas.dischargeOver (m : Meas) (now : Time) : Bool :=
  match m.discharge with
  | some d => decide (d.due ≤ now)
  | none => false

/-- The line switches whose line no longer satisfies R158 open (R160): force and return by the own held lines,
sense by the lines that the partner is recorded to hold. -/
def Meas.enforceLines (m : Meas) (own partner : Line → Bool) : Meas :=
  { m with forceSw := m.forceSw.filter own, retSw := m.retSw.filter own, senseSw := m.senseSw.filter partner }

end Sys2Proof.Machine
end

