-- ==== Sys2Proof/Machine/PeerView.lean ====
section
/-! DEFINITION. The Peer View (chapter 02): what each frame does to its sender's record, trust, effective boxes
and lines, and the line table. -/

namespace Sys2Proof.Machine

/-! ### Effective box and lines (R30, R31) -/

/-- The reach box if known, else the whole frame (R30). -/
def reachOrWhole (r : PeerRecord) : Box := r.reach.getD wholeFrame

/-- A record's effective box, for a station on side `own` (R30). -/
def effectiveBox (own : Side) (r : PeerRecord) : Option Box :=
  if r.side.isSome && !decide (r.side = some own) then none
  else
    match r.presence with
    | .silent => r.frozen.bind Frozen.box
    | .unsure => some (reachOrWhole r)
    | .present =>
      if r.mode = some .cfgFault then some wholeFrame
      else some (r.held.getD (reachOrWhole r))

/-- A record's effective lines, lowest first (R31). -/
def effectiveLines (r : PeerRecord) : List Line :=
  match r.presence with
  | .present => allLines.filter (holdsLine r.lines)
  | .unsure => allLines
  | .silent => (r.frozen.map Frozen.lines).getD []

/-- The box overlaps the record's effective box. -/
def overlapsRecord (own : Side) (b : Box) (r : PeerRecord) : Bool :=
  match effectiveBox own r with
  | some e => overlaps b e
  | none => false

/-! ### Sequence and presence (R22, R23, R29) -/

/-- The record made by a first frame that is not a BEACON, before the frame's own fields (R22). -/
def newRecord (seq : Seq) (now : Time) : PeerRecord :=
  { presence := .unsure, side := none, mode := none, reach := none, held := none, lines := LineRoles.none
    frontTag := 0, landed := false, atHaven := false, lastSeq := seq, lastHeard := now, frozen := none }

/-- The sequence and presence step of a frame heard (R23, R24, R29). -/
def trackRecord (old : Option PeerRecord) (isBeacon : Bool) (seq : Seq) (now : Time) : PeerRecord :=
  match old with
  | none => { newRecord seq now with presence := if isBeacon then .present else .unsure }
  | some r =>
    let presence :=
      match r.presence with
      | .silent => if isBeacon then .present else .unsure
      | p => if seq = r.lastSeq + 1 then (if isBeacon then .present else p) else .unsure
    { r with presence, lastSeq := seq, lastHeard := now, frozen := none }

/-- The lines that a frame takes out of the record's held lines or out of its effective lines (R33). -/
def droppedBy (old : Option PeerRecord) (new : PeerRecord) (l : Line) : Bool :=
  match old with
  | none => false
  | some r =>
    (holdsLine r.lines l && !holdsLine new.lines l) ||
    (decide (l ∈ effectiveLines r) && !decide (l ∈ effectiveLines new))

/-- A passed frame from a head: its record is made or tracked, the frame's fields are applied, and the lines
it drops are set to rest (R23 to R25, R33). -/
def View.track (v : View) (hdr : Header) (isBeacon : Bool) (fields : PeerRecord → PeerRecord) (now : Time) : View :=
  let old := tableGet hdr.sender.val v.peers
  let new := fields (trackRecord old isBeacon hdr.seq now)
  { peers := tablePut hdr.sender.val new v.peers, rests := restLines v.rests (droppedBy old new) (now + lineRest) }

/-! ### The fields each frame changes (R24, R25, R26) -/

def beaconFields (b : BeaconBody) (r : PeerRecord) : PeerRecord :=
  { r with side := some b.side, mode := some b.mode, reach := b.reach, held := b.held, lines := b.lines
           frontTag := b.frontTag, landed := b.landed, atHaven := b.atHaven }

def claimFields (b : ClaimBody) (r : PeerRecord) : PeerRecord :=
  { r with side := some b.side, held := some b.box, lines := b.lines }

def releaseFields (b : ReleaseBody) (r : PeerRecord) : PeerRecord :=
  { r with side := some b.side, held := some b.box, lines := b.lines, atHaven := b.atHaven }

def askFields (b : AskBody) (r : PeerRecord) : PeerRecord := { r with side := some b.side }

def touchFields (b : TouchBody) (r : PeerRecord) : PeerRecord :=
  { r with side := some b.side, frontTag := b.tag, landed := true }

/-- PAIR DONE and PAIR ABANDON. -/
def unlandedFields (r : PeerRecord) : PeerRecord := { r with landed := false }

/-- Frames whose fields the view does not read. -/
def noFields (r : PeerRecord) : PeerRecord := r

/-! ### Losing trust (R27, R28) -/

/-- A record marked UNSURE; a SILENT one loses its frozen state (R27). -/
def markUnsure (r : PeerRecord) : PeerRecord := { r with presence := .unsure, frozen := none }

/-- Every record marked UNSURE at once (R27). -/
def View.markAllUnsure (v : View) : View := { v with peers := tableMap markUnsure v.peers }

/-- A record fallen SILENT: its effective box and lines of this moment are frozen (R28). -/
def silence (own : Side) (r : PeerRecord) : PeerRecord :=
  { r with presence := .silent, frozen := some ⟨effectiveBox own r, effectiveLines r⟩ }

/-! ### The line table (R32, R34) -/

/-- The line is in use: held by the station or in a record's effective lines (R32). -/
def Fc4.lineInUse (s : Fc4) (l : Line) : Bool :=
  holdsLine s.resv.heldLines l || s.view.peers.any (fun p => decide (l ∈ effectiveLines p.2))

/-- The rest of a line is over: never set, taken to be over by its expiry, or strictly past. At the very
instant it ends, the expiry must be taken first (R34, log 12). -/
def restOver (rest : Option Time) (now : Time) : Bool :=
  match rest with
  | none => true
  | some t => decide (t < now)

/-- The line is free (R34). -/
def Fc4.lineFree (s : Fc4) (l : Line) : Bool := !s.lineInUse l && restOver (restOf s.view.rests l) s.now

/-- The free lines, lowest first. -/
def Fc4.freeLines (s : Fc4) : List Line := allLines.filter s.lineFree

/-! ### The view as the Reservation Unit reads it -/

/-- The box overlaps the effective box of some record (R45). -/
def Fc4.overlapsPeers (s : Fc4) (b : Box) : Bool :=
  s.view.peers.any (fun p => overlapsRecord s.ctl.side b p.2)

/-- The crowding check (R65): the held box overlaps the effective box of a PRESENT record. -/
def Fc4.crowded (s : Fc4) : Bool :=
  match s.resv.heldBox with
  | some b => s.view.peers.any (fun p => decide (p.2.presence = .present) && overlapsRecord s.ctl.side b p.2)
  | none => false

/-- The record of a peer. -/
def Fc4.record (s : Fc4) (peer : Station) : Option PeerRecord := tableGet peer.val s.view.peers

end Sys2Proof.Machine
end

