-- ==== Sys2Proof/Machine/Reservation.lean ====
section
/-! DEFINITION. The Reservation Unit (chapter 03): releases, the examination of claims, asks, withdrawals and
move requests. -/

namespace Sys2Proof.Machine

/-! ### Releases (R49, R50) -/

/-- The box held, or the standing box where none is held. -/
def Fc4.heldOrStanding (s : Fc4) : Box := s.resv.heldBox.getD s.standing

/-- What a RELEASE that falls due for `cause` states, or none where R49 fills none. -/
def Fc4.releaseContents (s : Fc4) (cause : ReleaseCause) : Option ReleaseFill :=
  let flag := s.atHavenFlag
  match cause with
  | .moveEnd =>
    if s.resv.heldBox = some s.standing then none else some ⟨s.standing, s.resv.heldLines, 0, flag⟩
  | .arrival answer => some ⟨s.standing, s.resv.heldLines, answer, flag⟩
  | .atHaven answer => some ⟨s.heldOrStanding, s.resv.heldLines, answer, flag⟩
  | .yieldGivenUp answer => some ⟨s.standing, s.resv.heldLines, answer, flag⟩
  | .linesDropped => some ⟨s.heldOrStanding, LineRoles.none, 0, flag⟩
  | .strayGrant lines => some ⟨s.standing, lines, 0, flag⟩
  | .carriageStands =>
    if s.ctl.axisFaulted then
      if noLines s.resv.heldLines then none else some ⟨s.heldOrStanding, LineRoles.none, 0, flag⟩
    else if s.resv.heldBox = some s.standing ∧ noLines s.resv.heldLines then none
    else some ⟨s.standing, LineRoles.none, 0, flag⟩
  | .axisFaultCleared => some ⟨s.standing, LineRoles.none, 0, flag⟩

/-- The RELEASE slot filled for `cause` (R49). -/
def Fc4.fillReleaseFor (s : Fc4) (cause : ReleaseCause) : Fc4 :=
  match s.releaseContents cause with
  | some f => { s with link := s.link.fillRelease f }
  | none => s

/-- A RELEASE falls due: it waits while the own CLAIM is on the line (R50). Where a second one falls due behind the same
CLAIM only the last cause waits, as a newer fill replaces the older one (R9, R49), also where that cause then fills
nothing; the answer of the earlier one is lost (DESIGN CHOICE, log 50). -/
def Fc4.releaseDue (s : Fc4) (cause : ReleaseCause) : Fc4 :=
  if s.link.sending .claim then { s with resv := { s.resv with waiting := some cause } }
  else s.fillReleaseFor cause

/-- The own CLAIM frame has ended: a RELEASE that waited for it is filled (R50). -/
def Fc4.flushRelease (s : Fc4) : Fc4 :=
  match s.resv.waiting with
  | some cause => ({ s with resv := { s.resv with waiting := none } }).fillReleaseFor cause
  | none => s

/-- The RELEASE that is pending: filled, or due behind the own CLAIM (R42, R43, log 24). -/
def Fc4.pendingRelease (s : Fc4) : Option ReleaseFill :=
  match s.resv.waiting.bind s.releaseContents with
  | some f => some f
  | none => s.link.release

/-- The box the station will hold once any pending RELEASE has completed (R43). -/
def Fc4.comingBox (s : Fc4) : Option Box :=
  match s.pendingRelease with
  | some f => some f.box
  | none => s.resv.heldBox

/-- The lines the station will hold once any pending RELEASE has completed (R43). -/
def Fc4.comingLines (s : Fc4) : LineRoles :=
  match s.pendingRelease with
  | some f => f.lines
  | none => s.resv.heldLines

/-! ### Asks (R53, R54) -/

/-- The outstanding ask ends; an ASK that has not completed is withdrawn (R54). -/
def Fc4.endAsk (s : Fc4) : Fc4 :=
  match s.resv.ask with
  | some a =>
    { s with resv := { s.resv with ask := none }
             link := if a.sent.isNone then s.link.withdrawAsk else s.link }
  | none => s

/-- The peer is a PRESENT blocker of the box (R53). -/
def Fc4.presentBlocker (s : Fc4) (peer : Station) (b : Box) : Bool :=
  match s.record peer with
  | some r => decide (r.presence = .present) && overlapsRecord s.ctl.side b r
  | none => false

/-- The lowest-numbered PRESENT blocker of the box (R53). -/
def Fc4.askTarget (s : Fc4) (b : Box) : Option Station :=
  (List.finRange 16).find? (fun p => s.presentBlocker p b)

/-- An ask not yet sent ends when its target no longer blocks the claim (R53). -/
def Fc4.reviewAsk (s : Fc4) (b : Box) : Fc4 :=
  match s.resv.ask with
  | some a => if a.sent.isNone && !s.presentBlocker a.target b then s.endAsk else s
  | none => s

/-- A MOVE claim blocked for 5,000 µs, with no ask outstanding, asks its lowest PRESENT blocker (R53). -/
def Fc4.createAsk (s : Fc4) (c : Claim) : Fc4 :=
  match s.resv.blockedSince with
  | some t =>
    if c.kind = .move ∧ s.resv.ask = none ∧ t + askDelay ≤ s.now then
      match s.askTarget c.box with
      | some p =>
        { s with resv := { s.resv with ask := some ⟨p, c.box, none⟩ }, link := s.link.fillAsk ⟨p, c.box⟩ }
      | none => s
    else s
  | none => s

/-! ### The examination of a claim (R45, R46, R51) -/

/-- A shadow stands until its expiry is taken or is strictly past (R62, log 12). -/
def shadowActive (now : Time) (sh : Shadow) : Bool := decide (now ≤ sh.expiry)

/-- The box overlaps the wanted box of a standing yield shadow (R45). -/
def Fc4.overlapsShadows (s : Fc4) (b : Box) : Bool :=
  s.resv.shadows.any (fun sh => shadowActive s.now sh && overlaps b sh.box)

/-- Every line the claim would add is free (R45). -/
def Fc4.claimLinesFree (s : Fc4) (lines : LineRoles) : Bool :=
  allLines.all (fun l => !holdsLine lines l || holdsLine s.resv.heldLines l || s.lineFree l)

/-- The four conditions of R45 on a box and a line set. -/
def Fc4.claimPasses (s : Fc4) (b : Box) (lines : LineRoles) : Bool :=
  !s.overlapsPeers b && !s.overlapsShadows b && inside s.standing b && s.claimLinesFree lines

/-- A LINE claim's choice: the two lowest free lines, the lower FORCE and the higher RETURN (R51). -/
def Fc4.lineChoice (s : Fc4) : Option LineRoles :=
  match s.freeLines with
  | a :: b :: _ => some ⟨some a, some b⟩
  | _ => none

/-- The claim as this examination takes it: a LINE claim on the box now held, with its lines chosen afresh
(R51); none where fewer than two lines are free. -/
def Fc4.claimNow (s : Fc4) (c : Claim) : Option Claim :=
  match c.kind with
  | .move => some c
  | .line => s.lineChoice.map (fun lines => { c with box := s.heldOrStanding, lines })

/-- The claim is blocked: blocked-since is set if it is not (R46). -/
def Fc4.noteBlocked (s : Fc4) : Fc4 :=
  match s.resv.blockedSince with
  | some _ => s
  | none => { s with resv := { s.resv with blockedSince := some s.now, recheckDue := none } }

/-- The claim fails its examination: it is blocked, and may ask (R46, R53). -/
def Fc4.claimFails (s : Fc4) (c : Claim) : Fc4 := ((s.noteBlocked).reviewAsk c.box).createAsk c

/-- The claim passes: it is the pending claim, and its CLAIM slot is filled (R46). -/
def Fc4.claimFills (s : Fc4) (c : Claim) : Fc4 :=
  ({ s with resv := { s.resv with claim := some c }
            link := s.link.fillClaim ⟨c.box, c.lines, c.tag⟩ }).reviewAsk c.box

/-- One examination of the pending claim (R45, R46). -/
def Fc4.examine (s : Fc4) : Fc4 :=
  match s.resv.claim with
  | none => s
  | some c =>
    match s.claimNow c with
    | none => s.claimFails c
    | some c' => if s.claimPasses c'.box c'.lines then s.claimFills c' else s.claimFails c'

/-- A blocked claim whose CLAIM slot is empty is examined again (R46). -/
def Fc4.recheck (s : Fc4) : Fc4 :=
  if s.resv.claim.isSome && s.resv.blockedSince.isSome && s.link.claim.isNone then s.examine else s

/-- The examination at the moment of offering (R10, R45): a LINE claim keeps its pair, on the box now held.
A claim that fails leaves its slot and is blocked. -/
def Fc4.offerExamination (s : Fc4) : Fc4 :=
  match s.resv.claim, s.link.claim with
  | some c, some f =>
    let box := if c.kind = .line then s.heldOrStanding else f.box
    if s.claimPasses box f.lines then
      { s with link := { s.link with claim := some ⟨box, f.lines, f.tag⟩ }
               resv := { s.resv with claim := some { c with box } } }
    else ({ s with link := s.link.withdrawClaim }).claimFails { c with box }
  | none, some _ => { s with link := s.link.withdrawClaim }
  | _, none => s

/-! ### Withdrawals and requests (R43, R44, R48) -/

/-- The pending claim and blocked-since end, and the CLAIM slot is withdrawn (R48). -/
def Fc4.dropClaim (s : Fc4) : Fc4 :=
  { s with resv := { s.resv with claim := none, blockedSince := none, recheckDue := none }
           link := s.link.withdrawClaim }

/-- The owner withdraws the pending claim; the outstanding ask ends with it (R48, R54). -/
def Fc4.withdrawClaim (s : Fc4) : Fc4 := if s.resv.claim.isSome then s.dropClaim.endAsk else s

/-- A new claim is created and examined. One of the same requester that is pending is replaced, its
blocked-since carried over (R44): a Touch List that requests again after a deferral (log 40), a Pair Unit whose lines
are chosen again. -/
def Fc4.createClaim (s : Fc4) (c : Claim) : Fc4 :=
  let since :=
    match s.resv.claim with
    | some old => if old.who = c.who then s.resv.blockedSince else none
    | none => none
  let s1 := s.withdrawClaim
  ({ s1 with resv := { s1.resv with claim := some c, blockedSince := since, recheckDue := none } }).examine

/-- The purpose of a requester's move. -/
def purposeOf : Requester → Purpose
  | .park => .park
  | .yield => .yield
  | _ => .touch

/-- The move to `q` is permitted (R42): the Motion Unit holds it, and a touch goes on to MOVE (R78). -/
def Fc4.permitMove (s : Fc4) (who : Requester) (q : Pos) : Fc4 :=
  { s with motion := { s.motion with permitted := some ⟨q, purposeOf who⟩ }
           work := if who = .touchList then { s.work with touch := s.work.touch.map (fun t => { t with stage := .move }) }
                   else s.work }

/-- A requester asks for a move from the current position to `q` (R43). -/
def Fc4.requestMove (s : Fc4) (who : Requester) (q : Pos) : Fc4 :=
  let box := sweptBox s.geo s.here q
  if (s.comingBox.map (inside box)).getD false then s.withdrawClaim.permitMove who q
  else s.createClaim ⟨.move, box, s.comingLines, 0, who, q⟩

/-- The Pair Unit, as SOURCE, asks for lines (R51). -/
def Fc4.requestLines (s : Fc4) (tag : Nat) : Fc4 :=
  s.createClaim ⟨.line, s.heldOrStanding, LineRoles.none, tag, .pairUnit, s.here⟩

/-! ### Yields (R58, R60) -/

/-- The lowest-numbered asker in the received-ask set, or 0 (R60). -/
def Fc4.lowestAsker (s : Fc4) : Nat := (s.resv.asks.head?.map Prod.fst).getD 0

/-- A new shadow, in place of an older one of the same asker (R62). -/
def addShadow (shadows : List Shadow) (sh : Shadow) : List Shadow :=
  shadows.filter (fun o => !decide (o.asker = sh.asker)) ++ [sh]

/-- One shadow for each asker of the set, expiring 50 ms from now; the set is emptied and no yield is due
any longer (R60, R61). R60 gives the shadows of one instant no order among themselves: they are created by rising
asker number (DESIGN CHOICE, log 41). -/
def Fc4.settleAsks (s : Fc4) : Fc4 :=
  { s with resv := { s.resv with
      shadows := s.resv.asks.foldl (fun acc a => addShadow acc ⟨a.1, a.2, s.now + shadowTime⟩) s.resv.shadows
      asks := [], yieldDue := false, yieldAtClose := false } }

/-- The RELEASE that answers the lowest asker falls due, and the asks are settled (R59, R60). Where that RELEASE must wait
for the own CLAIM (R50), the set is emptied and the shadows are timed from when it falls due (DESIGN CHOICE, log 53). -/
def Fc4.answerAsks (s : Fc4) (cause : Nat → ReleaseCause) : Fc4 := (s.releaseDue (cause s.lowestAsker)).settleAsks

/-- Some requester's yield is under way: its claim is pending, its move permitted or in progress. -/
def Fc4.yieldUnderWay (s : Fc4) : Bool :=
  (match s.resv.claim with
    | some c => decide (c.who = .yield)
    | none => false) ||
  (match s.motion.permitted with
    | some p => decide (p.purpose = .yield)
    | none => false) ||
  (match s.motion.move with
    | some m => decide (m.purpose = .yield)
    | none => false)

/-- A paired touch is in FINISHING. -/
def Fc4.finishing (s : Fc4) : Bool :=
  match s.pair.rdv with
  | some r => decide (r.state = .finishing)
  | none => false

/-- The point at which a due yield begins has come (R58): no move in progress, Z raised, no touch in its
DESCENT stage, and, where it fell due after the lift of a paired touch in FINISHING, that touch ended. A yield that falls
due at the haven waits for that point too, where R60 would answer it at once (DEDUCED, log 49). -/
def Fc4.yieldReady (s : Fc4) : Bool :=
  s.resv.yieldDue && !s.moveInProgress && decide (s.motion.zState = .raised) && !s.yieldUnderWay &&
  !(match s.work.touch with
    | some t => decide (t.stage = .descent)
    | none => false) &&
  !(s.resv.yieldAtClose && s.finishing)

end Sys2Proof.Machine
end

