-- ==== Sys2Proof/Machine/ResultOps.lean ====
section
/-! DEFINITION. The Result Queue (chapter 09): joining, packing, refusals and command outcomes. -/

namespace Sys2Proof.Machine

/-- The packing trigger (R168): 4 or more records, or the oldest joined 20 ms or more ago. -/
def Fc4.packingTrigger (s : Fc4) : Bool :=
  match s.results.queue with
  | [] => false
  | q :: _ => decide (4 ≤ s.results.queue.length) || decide (q.joined + resultAge ≤ s.now)

/-- The RESULT slot is filled where it is empty and the trigger holds (R168). -/
def Fc4.testPacking (s : Fc4) : Fc4 :=
  if !s.link.result && s.packingTrigger then { s with link := s.link.fillResult } else s

/-- A record joins the tail of the queue, and the trigger is tested (R167, R168). -/
def Fc4.joinQueue (s : Fc4) (r : ResultRecord) : Fc4 :=
  ({ s with results := { s.results with queue := s.results.queue ++ [Queued.mk r s.now] } }).testPacking

/-- The outcome of a COMMAND or LOAD is handed over: it is the last command, and a STATUS is filled (R174). -/
def Fc4.reportCommand (s : Fc4) (c : Command) (o : CommandOutcome) : Fc4 :=
  ({ s with results := { s.results with last := some (c, o) } }).fillStatus

/-- A refusal joins the list of at most 4, or raises the overflow count, at most 255 (R172). -/
def Results.refuse (r : Results) (id : Nat) (code : RefusalCode) : Results :=
  if r.refusals.length < refusalMax then { r with refusals := r.refusals ++ [(id, code)] }
  else { r with overflow := min 255 (r.overflow + 1) }

end Sys2Proof.Machine
end

