-- ==== Sys2Proof/Machine/TouchFlow.lean ====
section
/-! DEFINITION. The life of a touch (chapter 04): entries, results, deferral, starting, yields, entry to STOPPED
and what follows the end of a touch. -/

namespace Sys2Proof.Machine

/-! ### Entries -/

/-- The entry of id `id` changed by `f`. -/
def setEntry (id : Nat) (f : Entry → Entry) (l : List Entry) : List Entry :=
  l.map (fun e => if e.id = id then f e else e)

/-- The list without the entry of id `id`; the others close up in order (R68). -/
def removeEntry (id : Nat) (l : List Entry) : List Entry := l.filter (fun e => !decide (e.id = id))

/-- An entry is FINISHED. -/
def isFinished (e : Entry) : Bool := decide (e.st = .finished)

/-- Deferral of the entry is allowed (R76). -/
def Fc4.deferAllowed (s : Fc4) (e : Entry) : Bool :=
  decide (e.deferCount < deferMax) && s.work.list.any (fun o => !decide (o.id = e.id) && !isFinished o)

/-- The touch list changed by `f`. -/
def Fc4.mapList (s : Fc4) (f : List Entry → List Entry) : Fc4 :=
  { s with work := { s.work with list := f s.work.list } }

/-- The touch record changed by `f`. -/
def Fc4.mapTouch (s : Fc4) (f : TouchRecord → TouchRecord) : Fc4 :=
  { s with work := { s.work with touch := s.work.touch.map f } }

/-- The rendezvous record changed by `f`. -/
def Fc4.mapRdv (s : Fc4) (f : Rendezvous → Rendezvous) : Fc4 :=
  { s with pair := { s.pair with rdv := s.pair.rdv.map f } }

/-- The touch record and the rendezvous record are cleared. -/
def Fc4.clearTouch (s : Fc4) : Fc4 :=
  { s with work := { s.work with touch := none }, pair := { s.pair with rdv := none } }

/-! ### Results (R75, R82) -/

/-- The outcome is a verdict of a completed measurement. -/
def isVerdict : TouchOutcome → Bool
  | .pass | .failLow | .failHigh => true
  | _ => false

/-- The result record of an entry (R82, R164). -/
def buildResult (e : Entry) (o : TouchOutcome) (height : Option Nat) (meas : Option Measurement) : ResultRecord :=
  let meas := if isVerdict o then meas else none
  { id := e.id, kind := e.kind, outcome := o, value := meas.map (fun m => (m.value, m.range))
    flags := (meas.map Measurement.flags).getD MeasFlags.none, height, tag := e.terms.map PairTerms.tag }

/-- A result of entry `id`: it joins the queue and the entry leaves the list, or the entry becomes FINISHED
and holds it (R75). -/
def Fc4.produceResult (s : Fc4) (id : Nat) (r : ResultRecord) : Fc4 :=
  if s.queueRoom && !s.work.list.any isFinished then (s.mapList (removeEntry id)).joinQueue r
  else s.mapList (setEntry id (fun e => { e with st := .finished, held := some r }))

/-- The FINISHED entries that `room` places take, in list order: the list left, and their records (R75). -/
def takeFinished : List Entry → Nat → List Entry × List ResultRecord
  | [], _ => ([], [])
  | e :: rest, room =>
    match isFinished e, room, e.held with
    | true, n + 1, some r => ((takeFinished rest n).1, r :: (takeFinished rest n).2)
    | _, n, _ => (e :: (takeFinished rest n).1, (takeFinished rest n).2)

/-- Held results are handed over while the queue has room (R75). -/
def Fc4.handOver (s : Fc4) : Fc4 :=
  let t := takeFinished s.work.list (queueMax - s.results.queue.length)
  t.2.foldl Fc4.joinQueue (s.mapList (fun _ => t.1))

/-- The touch in progress ends with a result of outcome `o` (R82); its rendezvous record is NONE. -/
def Fc4.finishTouch (s : Fc4) (o : TouchOutcome) : Fc4 :=
  match s.activeEntry, s.work.touch with
  | some e, some t => s.clearTouch.produceResult e.id (buildResult e o t.height t.meas)
  | _, _ => s.clearTouch

/-- The touch in progress ends with no result; its entry is QUEUED where it stands (R78, R86). -/
def Fc4.requeueTouch (s : Fc4) : Fc4 :=
  if s.work.touch.isSome then
    s.clearTouch.mapList (fun l => l.map (fun e => if e.st = .active then { e with st := .queued } else e))
  else s

/-- The entry moves to the tail as QUEUED, its defer count one higher, and its touch ends (R76). -/
def Fc4.deferEntry (s : Fc4) (e : Entry) : Fc4 :=
  s.clearTouch.mapList (fun l => removeEntry e.id l ++ [{ e with deferCount := e.deferCount + 1, st := .queued }])

/-! ### Starting (R73, R77, R78, R80, R90) -/

/-- The touch enters DESCENT: pad and predicted height go to the Motion Unit (R80, R138). -/
def Fc4.enterDescent (s : Fc4) (e : Entry) : Fc4 :=
  let p := e.approach.getD (predict s.heights s.geo.nominal e.pad)
  let s1 := s.mapTouch (fun t => { t with stage := .descent })
  { s1 with motion := { s1.motion with handed := some (e.pad, p) } }

/-- The touch enters CLAIM (R78): at the pad it goes straight to DESCENT. -/
def Fc4.enterClaim (s : Fc4) (e : Entry) : Fc4 :=
  if s.motion.axis = .standing ∧ s.here = e.pad then s.enterDescent e else s.requestMove .touchList e.pad

/-- What becomes of a front entry that is started (R73, R90). -/
inductive StartDecision | go | defer | lost
  deriving DecidableEq, Repr

/-- The partner's record is absent, SILENT, or of a station that is STOPPED or in CFG_FAULT (R90). -/
def partnerGone (r : Option PeerRecord) : Bool :=
  match r with
  | none => true
  | some r => decide (r.presence = .silent) || decide (r.mode = some .stopped) || decide (r.mode = some .cfgFault)

/-- The Pair Unit's start decision for a paired entry (R90); a CAPR entry is always started. -/
def Fc4.startDecision (s : Fc4) (e : Entry) : StartDecision :=
  match e.terms with
  | none => .go
  | some p =>
    if partnerGone (s.record p.partner) then (if s.deferAllowed e then .defer else .lost)
    else
      match s.record p.partner with
      | some r => if r.frontTag ≠ 0 ∧ r.frontTag ≠ p.tag ∧ s.deferAllowed e then .defer else .go
      | none => .go

/-- A rendezvous record opened in HEADING (R88, R90). -/
def openRendezvous (kind : TouchKind) (p : PairTerms) : Rendezvous :=
  { state := .heading, tag := p.tag, partner := p.partner, role := p.role, kind, timer := none
    forceLine := none, retLine := none, connected := false, joinedHeard := false, roleChecked := false
    outcome := none, quiet := false, ending := none, endingDone := false }

/-- The front entry becomes ACTIVE and its touch goes to CLAIM; a paired one opens its rendezvous (R73, R90). -/
def Fc4.activate (s : Fc4) (e : Entry) : Fc4 :=
  let s1 := s.mapList (setEntry e.id (fun x => { x with st := .active }))
  ({ s1 with
      work := { s1.work with touch := some ⟨e.id, .claim, none, none, none⟩ }
      pair := { s1.pair with rdv := e.terms.map (openRendezvous e.kind) } }).enterClaim e

/-- The conditions under which the front entry is started (R73). -/
def Fc4.canStart (s : Fc4) : Bool :=
  decide (s.ctl.mode = .running) && s.work.touch.isNone && s.front.isSome && s.queueRoom && !s.resv.yieldDue

/-- The front entry is started; where it is deferred or ends at once, the next is (R73, R76, R90). Each turn
raises a defer count or takes an entry from the front, so `4 * n + 1` turns suffice for `n` entries. -/
def startTurns : Nat → Fc4 → Fc4
  | 0, s => s
  | n + 1, s =>
    if s.canStart then
      match s.front with
      | none => s
      | some e =>
        match s.startDecision e with
        | .go => s.activate e
        | .defer => startTurns n (s.deferEntry e)
        | .lost => startTurns n (s.produceResult e.id (buildResult e .partnerLost none none))
    else s

/-- The Touch List tests its start conditions (R73, R74). -/
def Fc4.testStart (s : Fc4) : Fc4 := (startTurns (4 * s.work.list.length + 1) s).refreshWaiting

/-! ### Yields (R58, R59, R61) -/

/-- PAUSING with no touch in progress becomes PAUSED (R188). -/
def Fc4.pauseCheck (s : Fc4) : Fc4 :=
  if s.ctl.mode = .pausing ∧ s.work.touch.isNone then { s with ctl := { s.ctl with mode := .paused } } else s

/-- The touch whose move a yield finds at its end ends with no result (R79), or with its outcome where a rendezvous
ended early has set one (R101, log 17). -/
def Fc4.yieldEndsTouch (s : Fc4) : Fc4 :=
  match s.pair.rdv.bind Rendezvous.outcome with
  | some o => s.finishTouch o
  | none => s.requeueTouch

/-- The move that a beginning yield takes the place of: permitted and not commanded, or still claimed. Its touch
ends with no result and its rendezvous record returns to NONE (R58, R78, R91). -/
def Fc4.yieldDrops (s : Fc4) : Fc4 :=
  if s.motion.permitted.isSome || s.resv.claim.isSome then
    ({ s.withdrawClaim with motion := { s.motion with permitted := none } }).requeueTouch
  else s

/-- A PARK is over, complete or not (R125). -/
def Motion.endPark (m : Motion) : Motion := { m with park := false }

/-- What a beginning yield clears: that move, and a PARK (R58, log 18). -/
def Fc4.yieldClears (s : Fc4) : Fc4 := { s.yieldDrops with motion := s.yieldDrops.motion.endPark }

/-- A due yield begins (R58, R59, R60): an answer at once at the haven, else a move request to it. -/
def Fc4.beginYield (s : Fc4) : Fc4 :=
  let s1 := s.yieldClears.pauseCheck
  if s1.atHavenFlag then (s1.answerAsks .atHaven).testStart else s1.requestMove .yield s1.geo.haven

/-- A due yield begins where its point has come (R58). -/
def Fc4.yieldIfReady (s : Fc4) : Fc4 := if s.yieldReady then s.beginYield else s

/-- A yield falls due (R56, R58). -/
def Fc4.yieldFallsDue (s : Fc4) : Fc4 :=
  (({ s with resv := { s.resv with yieldDue := true
                                   yieldAtClose := s.finishing && decide (s.motion.zState = ZState.raised) } }).refreshWaiting).yieldIfReady

/-! ### Lifts (R122) -/

/-- A lift is asked for: the descent record is cleared and Z rises, or stays raised. -/
def Motion.lift (m : Motion) : Motion :=
  { m with descent := none, handed := none, liftWanted := false
           zState := if m.zState = .raised then .raised else .lifting }

/-- A lift begins. -/
def Fc4.beginLift (s : Fc4) : Fc4 := { s with motion := s.motion.lift }

/-- The touch goes to LIFT. -/
def Fc4.goLift (s : Fc4) : Fc4 := (s.mapTouch (fun t => { t with stage := .lift })).beginLift

/-! ### Entry to STOPPED (R191) -/

/-- Reservation Unit (R63). -/
def Fc4.stopReservation (s : Fc4) : Fc4 :=
  let s1 := s.withdrawClaim.endAsk
  { s1 with resv := { s1.resv with asks := [], yieldDue := false, yieldAtClose := false } }

/-- Pair Unit (R107): an open record is cleared and its pending PAIR frame withdrawn; a sense switch opens (R160). -/
def Fc4.stopPair (s : Fc4) : Fc4 :=
  match s.pair.rdv with
  | some _ =>
    { s with pair := { s.pair with rdv := none }, link := s.link.withdrawPair
             meas := { s.meas with senseSw := none } }
  | none => s

/-- XY at a stop (R115): a move is stopped, a permitted move and a PARK end. -/
def Motion.stopAxes (m : Motion) : Motion :=
  let m1 := { m with permitted := none, park := false }
  if m.axis = .moving then
    { m1 with axis := .stopping, outX := .stop, outY := .stop, stopFrom := some ⟨m.ax.pos, m.ay.pos⟩ }
  else m1

/-- Z at a stop (R127): `idle` says that the measurement's abort has already ended. -/
def Motion.stopZ (m : Motion) (idle : Bool) : Motion :=
  match m.zState with
  | .fastDescent | .search => { m.lift with filter := 0 }
  | .landed => if idle then m.lift else { m with liftWanted := true, handed := none }
  | _ => { m with handed := none }

/-- What each block does at an entry to STOPPED with reason `r` (R191), but for the stop's RELEASE. -/
def Fc4.stopBlocks (s : Fc4) (r : StopReason) : Fc4 :=
  let s1 := { s with ctl := { s.ctl with mode := .stopped, reason := r, axisFaulted := decide (r = StopReason.axisFault) } }
  let s2 := s1.stopReservation.stopPair.requeueTouch
  let meas := s2.meas.abort s2.now
  { s2 with work := { s2.work with waiting := false }, meas
            motion := s2.motion.stopAxes.stopZ (decide (meas.state = MeasState.idle)) }

/-- Entry to STOPPED with reason `r` (R191): each block acts on its own state, and the stop's RELEASE falls
due where the carriage stands already (R63). -/
def Fc4.enterStopped (s : Fc4) (r : StopReason) : Fc4 :=
  let s1 := s.stopBlocks r
  if s1.moveInProgress then s1 else s1.releaseDue .carriageStands

/-! ### After a touch (R82, R83, R188) -/

/-- What follows the end of a touch: STOPPED(OVERLOAD) under HOLD (R83), else PAUSED from PAUSING (R188), a
yield that waited for it (R58), and the next start (R73). -/
def Fc4.afterTouch (s : Fc4) : Fc4 :=
  if s.motion.latch ∧ s.geo.hold ∧ (s.ctl.mode = .running ∨ s.ctl.mode = .pausing) then s.enterStopped .overload
  else if s.pauseCheck.yieldReady then s.pauseCheck.beginYield
  else s.pauseCheck.testStart

/-- The touch ends with outcome `o`, and what follows happens (R82). -/
def Fc4.endTouch (s : Fc4) (o : TouchOutcome) : Fc4 := (s.finishTouch o).afterTouch

/-! ### Giving up (R55, R59, R76, R91) -/

/-- The touch whose claim is given up is deferred, or ends with AREA_TIMEOUT (R76, R78). -/
def Fc4.giveUpTouch (s : Fc4) : Fc4 :=
  match s.activeEntry with
  | some e => if s.deferAllowed e then (s.deferEntry e).afterTouch else s.endTouch .areaTimeout
  | none => s

/-- The touch is deferred in stage CLAIM, its claim pending (R104): a request that the Touch List makes for its next
entry at this instant takes the claim's place, with its blocked-since (R44, log 40), and where none does the claim
ends as withdrawn (R48). -/
def Fc4.deferClaiming (s : Fc4) (e : Entry) : Fc4 :=
  let s1 := (s.deferEntry e).afterTouch
  if s1.resv.claim.map Claim.who = some .touchList ∧ s1.work.touch.map TouchRecord.stage ≠ some .claim then
    s1.withdrawClaim
  else s1

/-- A MOVE claim is given up and its requester is told (R55). -/
def Fc4.giveUp (s : Fc4) (c : Claim) : Fc4 :=
  let s1 := s.withdrawClaim
  match c.who with
  | .touchList => s1.giveUpTouch
  | .park => { s1 with motion := { s1.motion with park := false } }
  | .yield => (s1.answerAsks .yieldGivenUp).testStart
  | .pairUnit => s1

/-- A PARK goes on where Z is raised: it is complete at the haven, else it asks for the move (R125). -/
def Fc4.parkProceeds (s : Fc4) : Fc4 :=
  if s.motion.park ∧ s.motion.zState = .raised ∧ s.resv.claim.isNone ∧ s.motion.permitted.isNone ∧
      s.motion.axis = .standing then
    if s.here = s.geo.haven then { s with motion := { s.motion with park := false } }
    else s.requestMove .park s.geo.haven
  else s

end Sys2Proof.Machine
end

