-- ==== Sys2Proof/Machine/PairFlow.lean ====
section
/-! DEFINITION. The Pair Unit (chapter 05): meeting, lines, connections, the end of a rendezvous and its closing;
and what a failed search, a lost contact and an ended measurement do to the touch they belong to. -/

namespace Sys2Proof.Machine

/-- A pending claim of kind LINE. -/
def Fc4.lineClaimPending (s : Fc4) : Bool :=
  match s.resv.claim with
  | some c => decide (c.kind = .line)
  | none => false

/-- The outcome is set in the touch record and, where one is open, in the rendezvous record. -/
def Fc4.setOutcome (s : Fc4) (o : TouchOutcome) : Fc4 :=
  (s.mapTouch (fun t => { t with outcome := some o })).mapRdv (fun r => { r with outcome := some o })

/-- The connections are recorded as broken once every line switch is open. -/
def Fc4.noteSwitches (s : Fc4) : Fc4 :=
  if s.meas.forceSw.isNone && s.meas.retSw.isNone && s.meas.senseSw.isNone then
    s.mapRdv (fun r => { r with connected := false })
  else s

/-- The Pair Unit asks for its connections to be broken (R159). -/
def Fc4.breakLines (s : Fc4) : Fc4 :=
  if s.meas.state = .idle then ({ s with meas := s.meas.openLines }).noteSwitches
  else if s.meas.purposeIs .final && s.meas.computed.isSome then { s with meas := { s.meas with breakAtEnd := true } }
  else ({ s with meas := s.meas.abort s.now }).noteSwitches

/-- The ending frame, if any, has completed (R100, R101). -/
def Rendezvous.endingOver (r : Rendezvous) : Bool := r.ending.isNone || r.endingDone

/-- A SOURCE in FINISHING drops its lines once its connections are broken and its ending frame, if any, has
completed (R52, R97, R101). -/
def Fc4.dropLinesIfDone (s : Fc4) : Fc4 :=
  match s.pair.rdv with
  | some r =>
    if r.state = .finishing ∧ r.role = .source ∧ r.connected = false ∧ r.endingOver ∧ ¬ noLines s.comingLines then
      s.releaseDue .linesDropped
    else s
  | none => s

/-- A landed touch in FINISHING lifts once its connections are broken and the unit is IDLE (R101). -/
def Fc4.liftIfFree (s : Fc4) : Fc4 :=
  match s.pair.rdv, s.work.touch with
  | some r, some t =>
    if r.state = .finishing ∧ r.connected = false ∧ s.meas.state = .idle ∧ t.stage = .measure then s.goLift else s
  | _, _ => s

/-- The conditions under which a record in FINISHING returns to NONE (R100, log 16). -/
def Fc4.closable (s : Fc4) (r : Rendezvous) : Bool :=
  decide (r.state = .finishing) && decide (s.work.touch.map TouchRecord.stage = some Stage.lift) &&
  decide (s.motion.zState = .raised) && !r.connected && r.endingOver && s.link.pair.isNone &&
  !s.link.sending .pair && noLines s.resv.heldLines && !s.lineClaimPending && !s.link.sendingLineClaim

/-- The record returns to NONE and the touch ends, where R100 allows it. -/
def Fc4.closeCheck (s : Fc4) : Fc4 :=
  match s.pair.rdv with
  | some r =>
    match r.outcome with
    | some o => if s.closable r then s.endTouch o else s
    | none => s
  | none => s

/-- The record goes to FINISHING, with an ABANDON for reason `o` unless a frame of the partner is the cause
(R91, R101). -/
def Fc4.toFinishing (s : Fc4) (o : TouchOutcome) : Fc4 :=
  match s.pair.rdv with
  | none => s
  | some r =>
    let s1 := s.mapRdv (fun r => { r with state := .finishing, timer := none })
    if r.quiet then s1
    else
      ({ s1 with link := s1.link.fillPair ⟨.abandon, some o, r.tag, r.partner⟩ }).mapRdv
        (fun r => { r with ending := some .abandon, endingDone := false })

/-- The ending of a landed rendezvous whose measurement, if any, has been aborted (R101). -/
def Fc4.finishLanded (s : Fc4) (o : TouchOutcome) : Fc4 :=
  let s1 := s.toFinishing o
  let s2 := if s1.lineClaimPending then s1.withdrawClaim else s1
  s2.breakLines.liftIfFree.dropLinesIfDone

/-- The touch goes to LIFT with Z raised and ends at once (R101, R122). -/
def Fc4.endRaised (s : Fc4) (o : TouchOutcome) : Fc4 :=
  ({ s with motion := { s.motion with handed := none } }).endTouch o

/-- The Pair Unit ends the open rendezvous early with outcome `o` (R101); `quiet` says that a frame of the
partner is the cause. An outcome already set is not changed. A descent has not begun while the Motion Unit still holds
the pad handed to it (R117). -/
def Fc4.endRendezvous (s : Fc4) (o : TouchOutcome) (quiet : Bool) : Fc4 :=
  match s.pair.rdv, s.work.touch with
  | some r, some t =>
    if r.outcome.isSome then s
    else
      let s1 := (s.setOutcome o).mapRdv (fun r => { r with quiet })
      match r.state with
      | .heading =>
        match t.stage with
        | .claim => s1.withdrawClaim.endRaised o
        | .descent => if s.motion.handed.isSome then s1.endRaised o else s1.toFinishing o
        | _ => s1
      | .measuring => { s1 with meas := s1.meas.abort s1.now }
      | .finishing => s
      | _ => s1.finishLanded o
  | _, _ => s

/-- The partner is lost (R104): its record is SILENT, or it is STOPPED or in CFG_FAULT. In stage CLAIM the start
decision is made again; later the rendezvous ends. -/
def Fc4.checkLost (s : Fc4) : Fc4 :=
  match s.pair.rdv with
  | some r =>
    if partnerGone (s.record r.partner) ∧ r.state ≠ .finishing ∧ r.outcome = none then
      match s.activeEntry, decide (s.work.touch.map TouchRecord.stage = some Stage.claim) with
      | some e, true =>
        if s.deferAllowed e then s.deferClaiming e else s.endRendezvous .partnerLost false
      | _, _ => s.endRendezvous .partnerLost false
    else s
  | none => s

/-- A connected SENSE whose partner's record no longer lists its return line disconnects, and in HOLDING has
lost its partner (R99, R160). -/
def Fc4.senseWatch (s : Fc4) : Fc4 :=
  match s.pair.rdv with
  | some r =>
    match r.role, r.connected, r.retLine, s.record r.partner with
    | .sense, true, some l, some p =>
      if holdsLine p.lines l then s
      else
        let s1 := ({ s with meas := { s.meas with senseSw := none } }).mapRdv (fun r => { r with connected := false })
        if r.state = .holding then s1.endRendezvous .partnerLost false else s1
    | _, _, _, _ => s
  | none => s

/-- A SENSE in LINKING whose partner's record shows two held lines connects to the return line, fills JOINED
and goes to HOLDING (R95, R158). -/
def Fc4.senseLines (s : Fc4) : Fc4 :=
  match s.pair.rdv with
  | some r =>
    match r.state, r.role, s.record r.partner with
    | .linking, .sense, some p =>
      match p.lines.force, p.lines.ret with
      | some _, some l =>
        if s.motion.zState = .landed then
          ({ s with meas := { s.meas with senseSw := some l }
                    link := s.link.fillPair ⟨.joined, none, r.tag, r.partner⟩ }).mapRdv
            (fun r => { r with retLine := some l, connected := true, state := .holding })
        else s.mapRdv (fun r => { r with retLine := some l })
      | _, _ => s
    | _, _, _ => s
  | none => s

/-- The record goes to LINKING: a SOURCE asks for lines, a SENSE looks for its partner's (R93 to R95). -/
def Fc4.toLinking (s : Fc4) (r : Rendezvous) (checked : Bool) : Fc4 :=
  let s1 := s.mapRdv (fun r => { r with state := .linking, roleChecked := checked })
  match r.role with
  | .source => s1.requestLines r.tag
  | .sense => s1.senseLines

/-- The touch note of a sender (R89). -/
def Fc4.note (s : Fc4) (peer : Station) : Option TouchNote := tableGet peer.val s.pair.notes

/-- The partner is met: its record shows our tag and landed, and it is PRESENT or UNSURE (R93). -/
def meets (r : Rendezvous) (p : PeerRecord) : Bool :=
  decide (p.frontTag = r.tag) && p.landed && !decide (p.presence = .silent)

/-- The role check at the meeting (R93). A note for our tag that names no role is no matching note (log 36). -/
def Fc4.meet (s : Fc4) : Fc4 :=
  match s.pair.rdv with
  | some r =>
    match r.state, s.record r.partner with
    | .landedWait, some p =>
      if meets r p then
        match s.note r.partner with
        | some n =>
          if n.tag = r.tag ∧ n.role = some r.role then s.endRendezvous .mismatch false
          else s.toLinking r (decide (n.tag = r.tag) && n.role.isSome)
        | none => s.toLinking r false
      else s
    | _, _ => s
  | none => s

/-- What the Pair Unit tests at every change of its partner's record (R93, R95, R99, R104). -/
def Fc4.pairRecheck (s : Fc4) : Fc4 := s.checkLost.senseWatch.meet.senseLines

/-- The own held lines have changed: force and return switches whose line is gone open at once (R160). -/
def Fc4.enforceOwnLines (s : Fc4) : Fc4 :=
  ({ s with meas := s.meas.enforceLines (holdsLine s.resv.heldLines) (fun _ => true) }).noteSwitches

/-- An owner starts its measurement only when the record is IDLE and Z is LANDED (R143). -/
def Fc4.canMeasure (s : Fc4) : Bool := decide (s.motion.zState = .landed) && decide (s.meas.state = .idle)

/-- The measurement of the touch on entry `e` is started for `owner` (R143). -/
def Fc4.beginFor (s : Fc4) (owner : MeasOwner) (e : Entry) : Fc4 :=
  { s with meas := s.meas.begin owner ⟨e.kind, e.low, e.high, e.hint⟩ s.now }

/-- The measurement is started for the SOURCE, which goes to MEASURING (R96, R143); where it cannot start yet, the JOINED
is kept (log 48). -/
def Fc4.startMeasuring (s : Fc4) : Fc4 :=
  match s.activeEntry, s.canMeasure with
  | some e, true => (s.beginFor .pairUnit e).mapRdv (fun r => { r with state := .measuring, timer := none })
  | _, _ => s.mapRdv (fun r => { r with joinedHeard := true })

/-- The SOURCE's line grant (R94, R158): both connections are made and reported together. -/
def Fc4.sourceLines (s : Fc4) (lines : LineRoles) : Fc4 :=
  match s.pair.rdv with
  | some r =>
    let s1 := s.mapRdv (fun r => { r with forceLine := lines.force, retLine := lines.ret })
    if r.state = .linking ∧ r.role = .source ∧ s.motion.zState = .landed ∧ s.resv.heldLines = lines then
      let s2 := ({ s1 with meas := { s1.meas with forceSw := lines.force, retSw := lines.ret } }).mapRdv
        (fun r => { r with connected := true, state := .joinedWait })
      if r.joinedHeard then s2.startMeasuring else s2
    else s1
  | none => s

/-- The search ended without a touchdown, by NO_CONTACT or an overload (R80, R91, R119, R123). -/
def Fc4.failSearch (s : Fc4) (o : TouchOutcome) : Fc4 :=
  let s1 :=
    if (s.work.touch.bind TouchRecord.outcome).isSome then s
    else (s.setOutcome o).toFinishing o
  s1.goLift

/-- Contact lost or an overload while landed (R81, R105): a paired touch ends through the Pair Unit, a solo one
aborts its measurement and lifts once the abort has ended. -/
def Fc4.failLanded (s : Fc4) (o : TouchOutcome) : Fc4 :=
  match s.pair.rdv, s.work.touch with
  | some _, _ => s.endRendezvous o false
  | none, some t =>
    if t.stage = .measure ∧ t.outcome = none then
      let s1 := { s.setOutcome o with meas := s.meas.abort s.now }
      if s1.meas.state = .idle then s1.goLift else s1
    else s
  | none, none => s

/-- The unit is IDLE again without a completion: a stop's lift begins (R127), a rendezvous that waited for it goes on
(R101), a solo touch whose outcome is set goes to LIFT (R81). -/
def Fc4.unitFreed (s : Fc4) : Fc4 :=
  let s1 := if s.motion.liftWanted then s.beginLift else s
  match s1.pair.rdv, s1.work.touch with
  | some r, _ =>
    match r.state, r.outcome with
    | .measuring, some o => s1.finishLanded o
    | .finishing, _ => s1.liftIfFree.dropLinesIfDone.closeCheck
    | _, _ => s1
  | none, some t => if t.stage = .measure ∧ t.outcome.isSome then s1.goLift else s1
  | none, none => s1

/-- The abort has ended (R161): every switch is open and the unit IDLE, and what waited for that goes on. -/
def Fc4.abortEnded (s : Fc4) : Fc4 := ({ s with meas := s.meas.abortDone }).noteSwitches.unitFreed

/-- The Touch List starts the measurement of its landed CAPR touch, as soon as the record is IDLE (R81, R143, log 48). -/
def Fc4.startSolo (s : Fc4) (e : Entry) : Fc4 := if s.canMeasure then s.beginFor .touchList e else s

/-- A measurement that found the record not IDLE is started (R143, log 48): that of a solo touch in MEASURE, or of a
SOURCE in JOINED_WAIT that has heard JOINED. -/
def Fc4.startWaiting (s : Fc4) : Fc4 :=
  match s.pair.rdv, s.work.touch, s.activeEntry with
  | none, some t, some e => if t.stage = .measure ∧ t.outcome = none then s.startSolo e else s
  | some r, _, _ => if r.state = .joinedWait ∧ r.joinedHeard then s.startMeasuring else s
  | _, _, _ => s

/-- The reset discharge has ended (R163): the unit is IDLE; what waited for it goes on (log 48). -/
def Fc4.resetDischarged (s : Fc4) : Fc4 := ({ s with meas := s.meas.goIdle }).unitFreed.startWaiting

/-- The completed measurement as its owner keeps it (R157). -/
def Meas.outcome (m : Meas) (c : Computed) : Measurement := ⟨c.value, c.range, m.flags⟩

/-- The record at the end of a final discharge (R157): the discharge switch off, the local input open, IDLE. -/
def Meas.finish (m : Meas) : Meas :=
  let m1 := { m.goIdle with computed := none, localIn := if m.kindNow = .capr then false else m.localIn }
  if m.breakAtEnd then m1.openLines else m1

/-- Completion (R157): the Touch List takes verdict and value and lifts (R81); the Pair Unit breaks its
connections, fills DONE, goes to FINISHING and lifts (R97). -/
def Fc4.measured (s : Fc4) (c : Computed) : Fc4 :=
  let s1 := ({ s with meas := s.meas.finish }).noteSwitches
  let s2 := (s1.setOutcome c.verdict).mapTouch (fun t => { t with meas := some (s.meas.outcome c) })
  match s.meas.owner, s.pair.rdv with
  | some .pairUnit, some r =>
    let s3 := s2.breakLines
    (({ s3 with link := s3.link.fillPair ⟨.done, none, r.tag, r.partner⟩ }).mapRdv
      (fun r => { r with ending := some .done, endingDone := false, state := .finishing })).goLift
  | some .touchList, _ => s2.goLift
  | _, _ => s1

/-- The end of the final discharge, as a completion or, after an abort, as the abort's end (R157, R161). -/
def Fc4.finalDischargeOver (s : Fc4) : Fc4 :=
  match s.meas.computed with
  | some c => s.measured c
  | none => s.abortEnded

/-- The lift has ended (R122, R124): the touch in LIFT ends (R82) or is closed (R100); a due yield and a PARK that
waited for it go on (R58, R125), the yield also where the touch is still in FINISHING (log 14). -/
def Fc4.liftEnded (s : Fc4) : Fc4 :=
  let s1 := { s with motion := { s.motion with zState := .raised, z := 0, filter := 0
                                               latch := s.motion.latch && s.geo.hold } }
  match s1.work.touch, s1.pair.rdv with
  | some t, none =>
    match t.stage, t.outcome with
    | .lift, some o => s1.endTouch o
    | _, _ => s1.yieldIfReady
  | some t, some _ => if t.stage = .lift then s1.closeCheck.yieldIfReady else s1.yieldIfReady
  | none, _ => s1.yieldIfReady.parkProceeds

end Sys2Proof.Machine
end

