-- ==== Sys2Proof/Machine/ResetRows.lean ====
section
/-! DEFINITION. Supply, reset line, start-up and the join window (chapter 10, R178 to R185; R20). -/

namespace Sys2Proof.Machine

/-! ### Resets (R181, R182) -/

/-- A reset acts at once: every block takes its after-reset values, and the reset lasts while `hold` says. The
clock, the strap values last read and the number of the part stay until they are read again (R179). -/
def Fc4.resetNow (s : Fc4) (source : ResetSource) (hold : ResetHold) (reading : CarriageReading) : Fc4 :=
  .afterReset s.now reading (.afterReset source (some hold) s.ctl.number s.ctl.side s.now)

/-- The reset ends: the straps are read, the reset discharge ends 1,000 µs from here (R163, R179, log 8), and the
receiver waits for an idle line (R1). -/
def Fc4.endReset (s : Fc4) (straps : Straps) : Fc4 :=
  { s with ctl := { s.ctl with number := straps.number, side := straps.side, resetHold := none, resetEnded := s.now }
           meas := s.meas.goDischarging .reset (s.now + longDischarge)
           link := { s.link with idleFrom := s.now + idleTime } }

/-- R181, R182: the supply rises; a reset line that is already held goes on being held. -/
def execPowerOn (dt : Time) (reading : CarriageReading) (s : State) : Host.Outcome State Fault Refusal :=
  rowEffect dt (fun p =>
    p.resetNow .powerOn ⟨true, (p.ctl.resetHold.map ResetHold.line).getD false, true⟩ reading) s

/-- R181: the settling interval is over; the reset ends unless the line is still held. -/
def execPowerOnSettled (dt : Time) (straps : Straps) (s : State) : Host.Outcome State Fault Refusal :=
  rowEffect dt (fun p =>
    match p.ctl.resetHold with
    | some h =>
      if h.supplyWait then
        if h.line then { p with ctl := { p.ctl with resetHold := some { h with supplyWait := false } } }
        else p.endReset straps
      else p
    | none => p) s

/-- R181, R182: the reset line is asserted. In a reset already in progress it becomes a cause of that reset. -/
def execResetLineAsserted (dt : Time) (reading : CarriageReading) (s : State) : Host.Outcome State Fault Refusal :=
  rowEffect dt (fun p =>
    match p.ctl.resetHold with
    | some h =>
      p.resetNow (if h.supplyRose then .powerOn else .resetLine) { h with line := true } reading
    | none => p.resetNow .resetLine ⟨false, true, false⟩ reading) s

/-- R181: the reset line is released; the reset ends unless the supply has still to settle. -/
def execResetLineReleased (dt : Time) (straps : Straps) (s : State) : Host.Outcome State Fault Refusal :=
  rowEffect dt (fun p =>
    match p.ctl.resetHold with
    | some h =>
      if h.line then
        if h.supplyWait then { p with ctl := { p.ctl with resetHold := some { h with line := false } } }
        else p.endReset straps
      else p
    | none => p) s

/-! ### Preparation (R180, R183, R185) -/

/-- The station enters CFG_FAULT: first beacon and STATUS are filled (R185). -/
def Fc4.enterCfgFault (s : Fc4) : Fc4 :=
  (({ s with ctl := { s.ctl with mode := .cfgFault } }).fillBeacon s.now).fillStatus

/-- The join window opens with a full 10,000 µs, its timer held while LINK_DOWN is in force (R20). -/
def Fc4.openJoin (s : Fc4) : Fc4 :=
  { s with link := { s.link with join := if s.link.linkDown.isSome then .held else .running (s.now + joinWindow) } }

/-- The end of preparation, once the image is judged and the stop wait is over (R183). -/
def Fc4.preparationEnd (s : Fc4) : Fc4 :=
  match s.ctl.judgement, s.ctl.startPos, s.ctl.config with
  | .valid, some p, some g => if allowed g p then s.openJoin else s.enterCfgFault
  | .invalid, some _, _ => s.enterCfgFault
  | _, _, _ => s

/-- The image is still to be judged at a station that reads it (R179, R180, R183). -/
def Fc4.imagePending (s : Fc4) : Bool :=
  s.receiving && decide (s.ctl.mode = .starting) && decide (s.ctl.judgement = .pending)

/-- The image is judged (R180): a valid one gives the configuration values and k (R141). -/
def Fc4.judge (s : Fc4) (g : Option ImageConfig) : Fc4 :=
  ({ s with ctl := { s.ctl with judgement := if g.isSome then .valid else .invalid, config := g }
            meas := { s.meas with k := g.map ImageConfig.samples } }).preparationEnd

/-- R180: 5,000 µs after the end of the reset the image is not whole, so it is invalid. -/
def execImageReadTimeout (dt : Time) (s : State) : Host.Outcome State Fault Refusal :=
  rowEffect dt (fun p => onlyIf (p.imagePending && decide (p.ctl.resetEnded + imageReadLimit ≤ p.now))
    (fun p => p.judge none) p) s

/-- R180, R197: the last of the 32 bytes is read in time. -/
def execImageJudged (dt : Time) (image : List Byte) (s : State) : Host.Outcome State Fault Refusal :=
  rowEffect dt (fun p =>
    onlyIf (p.imagePending && decide (image.length = 32) && decide (p.now ≤ p.ctl.resetEnded + imageReadLimit))
      (fun p => p.judge (judgeImage image)) p) s

/-- R129: both axes are stopped; the current position is the start-up position. -/
def Fc4.stopWaitOver (s : Fc4) : Fc4 :=
  ({ s with motion := { s.motion with axis := .standing, faultSeen := s.motion.faultSeen || s.anyAxisFault }
            ctl := { s.ctl with startPos := some s.here } }).preparationEnd

/-- R129: the end of the stop wait of STARTING. -/
def execStopWaitEnd (dt : Time) (s : State) : Host.Outcome State Fault Refusal :=
  rowEffect dt (fun p =>
    onlyIf (p.receiving && decide (p.ctl.mode = .starting) && decide (p.motion.axis = .stopping) && p.bothStopped)
      Fc4.stopWaitOver p) s

/-! ### The end of the join window (R20, R184) -/

/-- The join timer has expired. -/
def Fc4.joinOver (s : Fc4) : Bool :=
  match s.link.join with
  | .running due => decide (due ≤ s.now)
  | _ => false

/-- The mode is chosen (R20, R184). A stop entered here fills no RELEASE: what is held is the standing box of the point
where the carriage stopped, the start-up position, with no lines (R63; log 26). -/
def Fc4.chooseMode (s : Fc4) : Fc4 :=
  if s.ctl.cutRecorded then s.stopBlocks .linkCutoff
  else if s.ctl.dupRecorded then s.stopBlocks .dupStation
  else if s.crowded then s.stopBlocks .crowded
  else { s with ctl := { s.ctl with mode := .idle } }

/-- A change of stop reason to AXIS_FAULT within STOPPED (R114, R64). -/
def Fc4.reasonAxisFault (s : Fc4) : Fc4 :=
  { s with ctl := { s.ctl with reason := .axisFault, axisFaulted := true } }

/-- A fault seen in STARTING is acted on (R129, R184). No lines are held yet, so no RELEASE is filled (R64). -/
def Fc4.actOnFaultSeen (s : Fc4) : Fc4 :=
  let s1 := { s with motion := { s.motion with faultSeen := false } }
  if s.motion.faultSeen then
    if s.ctl.mode = .idle then s1.stopBlocks .axisFault
    else if s.ctl.mode = .stopped ∧ s.ctl.reason = .crowded then s1.reasonAxisFault
    else s1
  else s1

/-- R20, R184: the mode is entered, first beacon and STATUS are filled. The held box is the standing box at the start-up
position, as R66 and R184 say; R20 and R40 say at the current position, and the two differ where a drive has reported
another one in the window (DEDUCED, log 26). -/
def Fc4.joinEnd (s : Fc4) : Fc4 :=
  let box := standingBox s.geo (s.ctl.startPos.getD s.here)
  let s1 := { s with resv := { s.resv with heldBox := some box, heldLines := LineRoles.none }
                     link := { s.link with join := .closed } }
  ((s1.chooseMode.actOnFaultSeen).fillBeacon s.now).fillStatus

/-- R20: the join timer expires. -/
def execJoinWindowEnd (dt : Time) (s : State) : Host.Outcome State Fault Refusal :=
  rowEffect dt (fun p => onlyIf (p.receiving && decide (p.ctl.mode = .starting) && p.joinOver) Fc4.joinEnd p) s

end Sys2Proof.Machine
end

