-- ==== Sys2Proof/Machine/LinkRows.lean ====
section
/-! DEFINITION. The station's own frames and the faults of the line (chapter 01; completion effects of R15). -/

namespace Sys2Proof.Machine

/-! ### Offering and contention (R6, R7, R10) -/

/-- Contention on byte 0, bit by bit: the line is recessive only while every station that still drives is; a
station that drives recessive and reads dominant has lost (R6). True: this station wins. -/
def contend : List Bool → List (List Bool) → Bool
  | [], _ => true
  | b :: bs, others =>
    let line := b && others.all (fun o => o.headD true)
    if b && !line then false
    else contend bs ((others.filter (fun o => decide (o.headD true = line))).map List.tail)

/-- The station with contention value `own` wins against stations with those of `rivals`. -/
def winsLine (own : Byte) (rivals : List Byte) : Bool := contend (byteBits own) (rivals.map byteBits)

/-- The line is idle as far as this station knows of it, and offers are not held back as a whole (R1, R7). -/
def Fc4.mayOffer (s : Fc4) : Bool :=
  s.receiving && decide (s.link.idleFrom ≤ s.now) && s.link.onLine.isNone && !decide (s.ctl.mode = .starting) &&
  s.link.linkDown.isNone && !s.link.cutOff

/-- The filled slot that is offered: the lowest, or in CFG_FAULT only BEACON or STATUS (R7). -/
def Fc4.offeredSlot (s : Fc4) : Option FrameKind :=
  if s.ctl.mode = .cfgFault then
    if s.link.beacon then some .beacon else if s.link.status then some .status else none
  else s.link.lowestSlot

/-- What a frame of kind `k` would carry, its target and its payload, as the slots and the state stand (R7, R8). -/
def Fc4.frameOf (s : Fc4) : FrameKind → Option (OnAir × Station × List Byte)
  | .release => s.link.release.map fun f =>
      (.release f, 0, releasePayload ⟨s.ctl.side, f.atHaven, f.box, f.lines, f.answer⟩)
  | .ask => s.link.ask.map fun f => (.ask f, f.target, askPayload ⟨s.ctl.side, f.box⟩)
  | .claim => s.link.claim.map fun f => (.claim f, 0, claimPayload ⟨s.ctl.side, f.box, f.lines, f.tag⟩)
  | .touch => s.link.touch.map fun f => (.touch f, 0, touchPayload ⟨s.ctl.side, f.role, f.pad, f.height, f.tag⟩)
  | .pair => s.link.pair.map fun f =>
      (.pair f, f.target, pairPayload f.op ((f.reason.map outcomeCode).getD 0) f.tag)
  | .beacon => some (.beacon, 0, beaconPayload s.beaconBody)
  | .status => some (.status, 0, s.statusBytes)
  | .result =>
      let rs := (s.results.queue.take 4).map Queued.record
      some (.result rs.length, 0, resultPayload rs)
  | _ => none

/-- The claim is examined before its slot is offered (R10). -/
def Fc4.examineOffer (s : Fc4) : Fc4 := if s.offeredSlot = some .claim then s.offerExamination else s

/-- The frame of kind `k` begins; where it wins, it is on the line, and where it loses, another is (R1, R6, R7). -/
def Fc4.beginFrame (s : Fc4) (k : FrameKind) (rivals : List Byte) : Fc4 :=
  match s.frameOf k with
  | some (content, target, payload) =>
    if winsLine (byteOf (contentionValue k s.own)) rivals then
      let frame : OwnFrame :=
        { content, seq := s.link.seq, bytes := frameBytes (kindCode k) s.own s.link.seq target payload
          since := s.now, withdrawn := false, refilled := false }
      { s with link := { s.link with onLine := some frame } }
    else s.lineUsed
  | none => s

/-- The offer at an idle instant (R7). -/
def Fc4.offer (s : Fc4) (rivals : List Byte) : Fc4 :=
  let s1 := s.examineOffer
  match s1.offeredSlot with
  | some k => s1.beginFrame k rivals
  | none => s1

/-- R7: an idle instant; `rivals` are the contention values of the stations that begin with this one. -/
def execOffer (dt : Time) (rivals : List Byte) (s : State) : Host.Outcome State Fault Refusal :=
  rowEffect dt (fun p => onlyIf p.mayOffer (fun p => p.offer rivals) p) s

/-! ### Faults of the own frame and of the line (R15 to R19, R27) -/

/-- A duplicate of the own number is acted on (R17), or recorded (R20, R185). -/
def Fc4.duplicate (s : Fc4) : Fc4 :=
  match s.ctl.mode with
  | .starting => { s with ctl := { s.ctl with dupRecorded := true } }
  | .cfgFault => { s with ctl := { s.ctl with dupRecorded := true } }
  | .stopped => if s.ctl.reason = .linkCutoff then s else { s with ctl := { s.ctl with reason := .dupStation } }
  | _ => s.enterStopped .dupStation

/-- A failing own copy is counted; the third in a row stops a working station (R16). -/
def Fc4.countFailure (s : Fc4) : Fc4 :=
  if s.link.fails + 1 < 3 then { s with link := { s.link with fails := s.link.fails + 1 } }
  else
    let s1 := { s with link := { s.link with fails := 0 } }
    if working s.ctl.mode then s1.enterStopped .linkFault else s1

/-- Every record is marked UNSURE, which the Pair Unit sees (R27, R93). -/
def Fc4.trustNoPeer (s : Fc4) : Fc4 := ({ s with view := s.view.markAllUnsure }).pairRecheck

/-- R15, R16: the own frame has completed and its own copy fails. -/
def execOwnCopyFail (dt : Time) (s : State) : Host.Outcome State Fault Refusal :=
  rowEffect dt (fun p => onlyIf (p.receiving && p.link.onLine.isSome)
    (fun p => (({ p with link := p.link.completeFrame false }).lineUsed).flushRelease.countFailure.closeCheck.recheck) p) s

/-- R16: a bit fault after byte 0; the row stands at the end of the frame then received (log 9). Where that frame
passes, it is a duplicate's; where it fails, it counts as a failing own copy and no peer is trusted (R27). -/
def execBitFault (dt : Time) (passed : Bool) (s : State) : Host.Outcome State Fault Refusal :=
  rowEffect dt (fun p => onlyIf (p.receiving && p.link.onLine.isSome)
    (fun p =>
      let p1 := ({ p with link := p.link.dropFrame }).flushRelease
      let p2 := if passed then p1.lineUsed.duplicate else p1.trustNoPeer.countFailure
      p2.closeCheck.recheck) p) s

/-- R17: a passing frame with the own number that the station did not complete. -/
def execDupStationFrame (dt : Time) (s : State) : Host.Outcome State Fault Refusal :=
  rowEffect dt (fun p => onlyIf (p.hears (frameTime 0)) (fun p => p.lineUsed.duplicate.recheck) p) s

/-- The cut-off is acted on by mode (R18), or recorded (R20, R185). -/
def Fc4.cutOffMode (s : Fc4) : Fc4 :=
  match s.ctl.mode with
  | .starting => { s with ctl := { s.ctl with cutRecorded := true } }
  | .cfgFault => { s with ctl := { s.ctl with cutRecorded := true } }
  | .stopped => if s.ctl.reason = .dupStation then s else { s with ctl := { s.ctl with reason := .linkCutoff } }
  | _ => s.enterStopped .linkCutoff

/-- R18: the own output has been dominant for 300 µs; it is disconnected, and a frame on the line does not
complete. -/
def execTransmitterCutOff (dt : Time) (s : State) : Host.Outcome State Fault Refusal :=
  rowEffect dt (fun p => onlyIf (p.receiving && !p.link.cutOff)
    (fun p => (({ p with link := { p.link.dropFrame with cutOff := true } }).flushRelease).cutOffMode.closeCheck) p) s

/-- The join timer stops (R20). -/
def Link.holdJoin (l : Link) : Link :=
  match l.join with
  | .running _ => { l with join := .held }
  | _ => l

/-- R19: LINK_DOWN is entered, or its wait starts again; a join window's timer stops (R20). -/
def execLinkDownEntry (dt : Time) (s : State) : Host.Outcome State Fault Refusal :=
  rowEffect dt (fun p => onlyIf p.hearing
    (fun p => { p with link := { p.link with linkDown := some p.now }.holdJoin }) p) s

/-- The line last ended a long dominant run `quiet` ago, which is after that run reached its 300 µs, and the wait of
LINK_DOWN is over (R19). -/
def Fc4.linkDownOver (s : Fc4) (quiet : Time) : Bool :=
  match s.link.linkDown with
  | some t => decide (linkDownWait ≤ quiet) && decide (t + quiet ≤ s.now)
  | none => false

/-- LINK_DOWN is over, and a held join window runs again until `due` (R19, R20). -/
def Link.restartJoin (l : Link) (due : Time) : Link :=
  match l.join with
  | .held => { l with linkDown := none, join := .running due }
  | _ => { l with linkDown := none }

/-- R19, R20, R27: LINK_DOWN ends, no peer is trusted, a held join window starts again in full. -/
def execLinkDownEnd (line : QuietLine) (s : State) : Host.Outcome State Fault Refusal :=
  rowEffect line.dt (fun p => onlyIf (p.receiving && p.linkDownOver line.quiet)
    (fun p => ({ p with link := p.link.restartJoin (p.now + joinWindow) }).trustNoPeer.recheck) p) s

/-- The beacon timer has expired (R12). -/
def Fc4.beaconExpired (s : Fc4) : Option Time := s.link.beaconDue.filter (fun t => decide (t ≤ s.now))

/-- R12: the BEACON slot is filled, and the timer runs on. -/
def execBeaconTimer (dt : Time) (s : State) : Host.Outcome State Fault Refusal :=
  rowEffect dt (fun p =>
    match p.beaconExpired with
    | some due => p.fillBeacon due
    | none => p) s

/-! ### Passing own copies (R15) -/

/-- The own frame on the line, where it is of kind `k` and the receiver judges it. -/
def Fc4.ownFrame (s : Fc4) (k : FrameKind) : Option OwnFrame :=
  if s.receiving then s.link.onLine.filter (fun f => decide (f.content.kind = k)) else none

/-- The own frame of kind `k` completes with a passing own copy: slot, counter and failure count (R14, R15). -/
def Fc4.complete (s : Fc4) : Fc4 := ({ s with link := s.link.completeFrame true }).lineUsed

/-- A stray grant (R48): a RELEASE restores the state before it, unless it stands until CLEAR or a newer claim
is pending. Any claim created since the withdrawal counts as the one that replaced it, also one made after a give-up,
which R44 does not call a replacement (DESIGN CHOICE, log 52). -/
def Fc4.strayGrant (s : Fc4) (before : LineRoles) : Fc4 :=
  if (decide (s.ctl.mode = .stopped) && s.ctl.axisFaulted) || s.resv.claim.isSome then s
  else s.releaseDue (.strayGrant before)

/-- The pending claim is granted: it, blocked-since and the ask end, and its requester is told (R47). -/
def Fc4.reportGrant (s : Fc4) (c : Claim) (lines : LineRoles) : Fc4 :=
  let s1 := ({ s with resv := { s.resv with claim := none, blockedSince := none, recheckDue := none } }).endAsk
  match c.kind with
  | .move => s1.permitMove c.who c.target
  | .line => s1.sourceLines lines

/-- The held state becomes the claimed state (R47). -/
def Fc4.takeClaim (s : Fc4) (f : ClaimFill) : Fc4 :=
  { s with resv := { s.resv with heldBox := some f.box, heldLines := f.lines } }

/-- The own CLAIM completes (R47, R48, R50). A force or return switch whose line the claimed state does not hold opens
(R160). The lines of a SOURCE that finished meanwhile are dropped after it (R52, log 47). -/
def Fc4.claimCompletes (s : Fc4) (frame : OwnFrame) (f : ClaimFill) : Fc4 :=
  let s1 := (s.complete.takeClaim f).enforceOwnLines
  let s2 :=
    match frame.withdrawn, s.resv.claim with
    | false, some c => s1.reportGrant c f.lines
    | _, _ => s1.strayGrant s.resv.heldLines
  s2.flushRelease.dropLinesIfDone.closeCheck.recheck

/-- R47: the own CLAIM completes with a passing own copy. -/
def execClaimGranted (dt : Time) (s : State) : Host.Outcome State Fault Refusal :=
  rowEffect dt (fun p =>
    match p.ownFrame .claim with
    | some frame =>
      match frame.content with
      | .claim f => p.claimCompletes frame f
      | _ => p
    | none => p) s

/-- The held state becomes the one the RELEASE carries, and dropped lines rest (R33, R41, R50). -/
def Fc4.takeRelease (s : Fc4) (f : ReleaseFill) : Fc4 :=
  let dropped := fun l => holdsLine s.resv.heldLines l && !holdsLine f.lines l
  { s with resv := { s.resv with heldBox := some f.box, heldLines := f.lines }
           view := { s.view with rests := restLines s.view.rests dropped (s.now + lineRest) } }

/-- The lines of `lines` that are held in `kept` too. -/
def linesWithin (kept lines : LineRoles) : LineRoles :=
  ⟨lines.force.filter (holdsLine kept), lines.ret.filter (holdsLine kept)⟩

/-- A MOVE claim carries lines that the station goes on holding (R43): those that an own RELEASE has dropped leave the
pending claim and its slot (R52, log 47). A LINE claim chooses its lines anew (R51). -/
def Fc4.claimLosesLines (s : Fc4) (kept : LineRoles) : Fc4 :=
  match s.resv.claim with
  | some c =>
    if c.kind = .move then
      { s with resv := { s.resv with claim := some { c with lines := linesWithin kept c.lines } }
               link := { s.link with claim := s.link.claim.map (fun f => { f with lines := linesWithin kept f.lines }) } }
    else s
  | none => s

/-- The own RELEASE completes (R41, R50, R160). Where it was filled in place of the one that drops a finished SOURCE's
lines, that one falls due again (R52, log 47). -/
def Fc4.releaseCompletes (s : Fc4) (f : ReleaseFill) : Fc4 :=
  ((s.complete.takeRelease f).enforceOwnLines.claimLosesLines f.lines).dropLinesIfDone.closeCheck.recheck

/-- R50: the own RELEASE completes with a passing own copy. -/
def execReleaseCompleted (dt : Time) (s : State) : Host.Outcome State Fault Refusal :=
  rowEffect dt (fun p =>
    match p.ownFrame .release with
    | some frame =>
      match frame.content with
      | .release f => p.releaseCompletes f
      | _ => p
    | none => p) s

/-- The outstanding ask records its time sent, where the ASK has not been withdrawn (R53). -/
def Fc4.recordAskSent (s : Fc4) (frame : OwnFrame) : Fc4 :=
  if frame.withdrawn then s
  else { s with resv := { s.resv with ask := s.resv.ask.map (fun a => { a with sent := some s.now }) } }

/-- R53: the own ASK completes with a passing own copy. -/
def execAskSent (dt : Time) (s : State) : Host.Outcome State Fault Refusal :=
  rowEffect dt (fun p =>
    match p.ownFrame .ask with
    | some frame => (p.complete.recordAskSent frame).recheck
    | none => p) s

/-- R11: the own TOUCH completes with a passing own copy; the next descent may begin. -/
def execTouchSent (dt : Time) (s : State) : Host.Outcome State Fault Refusal :=
  rowEffect dt (fun p =>
    match p.ownFrame .touch with
    | some _ => p.complete.recheck
    | none => p) s

/-- The ending frame of the open rendezvous has completed (R97, R100). -/
def Fc4.pairCompletes (s : Fc4) (f : PairFill) : Fc4 :=
  let s1 := s.mapRdv (fun r =>
    if r.tag = f.tag ∧ r.partner = f.target ∧ r.ending = some f.op then { r with endingDone := true } else r)
  s1.dropLinesIfDone.closeCheck

/-- R97: the own PAIR frame completes with a passing own copy. -/
def execPairSent (dt : Time) (s : State) : Host.Outcome State Fault Refusal :=
  rowEffect dt (fun p =>
    match p.ownFrame .pair with
    | some frame =>
      match frame.content with
      | .pair f => (p.complete.pairCompletes f).recheck
      | _ => p
    | none => p) s

/-- R15: the own BEACON completes with a passing own copy. -/
def execBeaconSent (dt : Time) (s : State) : Host.Outcome State Fault Refusal :=
  rowEffect dt (fun p =>
    match p.ownFrame .beacon with
    | some _ => p.complete.recheck
    | none => p) s

/-- R173: the own STATUS completes with a passing own copy; refusal list and overflow count are emptied. -/
def execStatusSent (dt : Time) (s : State) : Host.Outcome State Fault Refusal :=
  rowEffect dt (fun p =>
    match p.ownFrame .status with
    | some _ => ({ p.complete with results := { p.results with refusals := [], overflow := 0 } }).recheck
    | none => p) s

/-- The records that the RESULT carried leave the queue; held results are handed over, the start conditions and
then the packing trigger are tested (R75, R168, R169). -/
def Fc4.resultsLeave (s : Fc4) (n : Nat) : Fc4 :=
  (({ s with results := { s.results with queue := s.results.queue.drop n } }).handOver).testStart.testPacking

/-- R169: the own RESULT completes with a passing own copy. -/
def execResultSent (dt : Time) (s : State) : Host.Outcome State Fault Refusal :=
  rowEffect dt (fun p =>
    match p.ownFrame .result with
    | some frame =>
      match frame.content with
      | .result n => (p.complete.resultsLeave n).recheck
      | _ => p
    | none => p) s

/-- R168: the oldest record has reached an age of 20 ms. -/
def execResultAgeTrigger (dt : Time) (s : State) : Host.Outcome State Fault Refusal :=
  rowEffect dt (fun p =>
    match p.results.queue with
    | q :: _ => if q.joined + resultAge ≤ p.now then p.testPacking else p
    | [] => p) s

end Sys2Proof.Machine
end

