-- ==== Sys2Proof/Machine/HeardRows.lean ====
section
/-! DEFINITION. Frames heard from heads, and the silence of peers (chapters 02, 03, 05). -/

namespace Sys2Proof.Machine

/-! ### Every frame heard (R5, R17, R21, R46) -/

/-- A passing frame from a head: its record is updated, its consumer acts, the Pair Unit tests its partner's
record, and a blocked claim is examined. A frame with the own number is a duplicate's (R17); one with sender 0
changes no record (R3, R21). -/
def Fc4.heardFrom (s : Fc4) (hdr : Header) (isBeacon : Bool) (fields : PeerRecord → PeerRecord)
    (consumer : Fc4 → Fc4) : Fc4 :=
  if hdr.sender = s.own then s.duplicate.recheck
  else if hdr.sender = 0 then s.recheck
  else (consumer { s with view := s.view.track hdr isBeacon fields s.now }).pairRecheck.recheck

/-- A passing frame that no consumer receives (R3, R195). A BEACON that is not well formed is tracked as any frame that
is no BEACON (DEDUCED, log 45). -/
def Fc4.heardOnly (s : Fc4) (hdr : Header) : Fc4 := s.heardFrom hdr false noFields id

/-- The row of a heard frame with a payload of `len` bytes (of that many at least, where the row leaves it open): where
the payload is not well formed, the frame is only tracked (R195). -/
def heardRow (dt : Time) (len : Nat) (hdr : Header) (wellFormed isBeacon : Bool) (fields : PeerRecord → PeerRecord)
    (consumer : Fc4 → Fc4) (s : State) : Host.Outcome State Fault Refusal :=
  rowEffect dt (fun p => onlyIf (p.hears (frameTime len))
    (fun p =>
      if wellFormed then p.lineUsed.heardFrom hdr isBeacon fields consumer else p.lineUsed.heardOnly hdr) p) s

/-! ### BEACON, CLAIM, RELEASE, ASK -/

/-- The coded fields of a BEACON hold a meaning (R195). -/
def beaconOk (b : BeaconBody) : Bool :=
  !decide (b.mode = .starting) && (b.reach.map boxOrdered).getD true && (b.held.map boxOrdered).getD true &&
  rolesDistinct b.lines

/-- A beacon from the ask's target that reports STOPPED or CFG_FAULT ends a sent ask (R54, log 35). -/
def Fc4.beaconHeard (s : Fc4) (sender : Station) (b : BeaconBody) : Fc4 :=
  match s.resv.ask with
  | some a =>
    if a.target = sender ∧ a.sent.isSome ∧ (b.mode = .stopped ∨ b.mode = .cfgFault) then s.endAsk else s
  | none => s

/-- R24: a BEACON. -/
def execBeaconReceived (dt : Time) (hdr : Header) (body : BeaconBody) (s : State) : Host.Outcome State Fault Refusal :=
  heardRow dt 30 hdr (beaconOk body) true (beaconFields body) (fun p => p.beaconHeard hdr.sender body) s

/-- The shadow of this claimer ends where the claimed box overlaps its wanted box (R62). -/
def endShadows (sender : Nat) (b : Box) (shadows : List Shadow) : List Shadow :=
  shadows.filter (fun sh => !(decide (sh.asker = sender) && overlaps b sh.box))

/-- A CLAIM reaches the Reservation Unit (R62). -/
def Fc4.claimHeard (s : Fc4) (sender : Station) (b : ClaimBody) : Fc4 :=
  { s with resv := { s.resv with shadows := endShadows sender.val b.box s.resv.shadows } }

/-- R25, R62: a CLAIM. -/
def execClaimReceived (dt : Time) (hdr : Header) (body : ClaimBody) (s : State) : Host.Outcome State Fault Refusal :=
  heardRow dt 14 hdr (boxOrdered body.box && rolesDistinct body.lines) false (claimFields body)
    (fun p => p.claimHeard hdr.sender body) s

/-- The target of an ask answered at its haven: where it still overlaps the claim, the claim is given up (R54). -/
def Fc4.havenAnswer (s : Fc4) (sender : Station) : Fc4 :=
  match s.resv.claim, s.record sender with
  | some c, some r => if overlapsRecord s.ctl.side c.box r then s.giveUp c else s
  | _, _ => s

/-- A RELEASE reaches the Reservation Unit (R54). -/
def Fc4.releaseHeard (s : Fc4) (sender : Station) (b : ReleaseBody) : Fc4 :=
  match s.resv.ask with
  | some a =>
    if a.target = sender then
      if b.atHaven then s.endAsk.havenAnswer sender
      else if b.answerTo = s.own.val then s.endAsk
      else s
    else s
  | none => s

/-- R25, R54: a RELEASE. -/
def execReleaseReceived (dt : Time) (hdr : Header) (body : ReleaseBody) (s : State) :
    Host.Outcome State Fault Refusal :=
  heardRow dt 13 hdr (boxOrdered body.box && rolesDistinct body.lines) false (releaseFields body)
    (fun p => p.releaseHeard hdr.sender body) s

/-- The asker joins the received-ask set, and a yield falls due (R56). -/
def Fc4.admitAsk (s : Fc4) (sender : Station) (b : Box) : Fc4 :=
  let s1 := { s with resv := { s.resv with asks := tablePut sender.val b s.resv.asks } }
  if s1.resv.yieldDue then s1 else s1.yieldFallsDue

/-- An ASK reaches the Reservation Unit: the tie rule, then the set (R56, R57). -/
def Fc4.askHeard (s : Fc4) (sender target : Station) (b : Box) : Fc4 :=
  if target = s.own ∧ working s.ctl.mode then
    match s.resv.ask with
    | some a =>
      if a.target = sender then
        if sender.val < s.own.val then s.endAsk.admitAsk sender b else s
      else s.admitAsk sender b
    | none => s.admitAsk sender b
  else s

/-- R56: an ASK. -/
def execAskReceived (dt : Time) (hdr : Header) (target : Station) (body : AskBody) (s : State) :
    Host.Outcome State Fault Refusal :=
  heardRow dt 11 hdr (boxOrdered body.box) false (askFields body) (fun p => p.askHeard hdr.sender target body.box) s

/-! ### TOUCH and PAIR -/

/-- The sender's touch note after a TOUCH (R89). -/
def noteTouch (notes : List (Nat × TouchNote)) (sender : Nat) (b : TouchBody) : List (Nat × TouchNote) :=
  if b.tag = 0 then tableDrop sender notes else tablePut sender ⟨b.tag, b.role⟩ notes

/-- The touch note of a sender is removed (R89). -/
def Fc4.dropNote (s : Fc4) (sender : Station) : Fc4 :=
  { s with pair := { s.pair with notes := tableDrop sender.val s.pair.notes } }

/-- The late role check: in LINKING or JOINED_WAIT, met without a matching note (R93). -/
def lateMismatch (r : Rendezvous) (sender : Station) (b : TouchBody) : Bool :=
  decide (r.partner = sender) && decide (b.tag = r.tag) && decide (b.role = some r.role) && !r.roleChecked &&
  (decide (r.state = .linking) || decide (r.state = .joinedWait))

/-- A TOUCH reaches the Height Table and the Pair Unit (R89, R93, R134). -/
def Fc4.touchHeard (s : Fc4) (sender : Station) (b : TouchBody) : Fc4 :=
  let s1 := ({ s with pair := { s.pair with notes := noteTouch s.pair.notes sender.val b } }).peerSample b
  match s1.pair.rdv with
  | some r => if lateMismatch r sender b then s1.endRendezvous .mismatch false else s1
  | none => s1

/-- R89, R93, R134: a TOUCH. -/
def execTouchReceived (dt : Time) (hdr : Header) (body : TouchBody) (s : State) : Host.Outcome State Fault Refusal :=
  heardRow dt 10 hdr true false (touchFields body) (fun p => p.touchHeard hdr.sender body) s

/-- The open rendezvous, where the frame is aimed at this station and carries its tag (R106). -/
def Fc4.aimedRdv (s : Fc4) (target : Station) (tag : Nat) : Option Rendezvous :=
  if target = s.own then s.pair.rdv.filter (fun r => decide (r.tag = tag)) else none

/-- A JOINED reaches a SOURCE (R96). -/
def Fc4.joinedHeard (s : Fc4) (sender target : Station) (tag : Nat) : Fc4 :=
  match s.aimedRdv target tag with
  | some r =>
    if r.partner = sender ∧ r.role = .source then
      match r.state with
      | .heading | .landedWait | .linking => s.mapRdv (fun r => { r with joinedHeard := true })
      | .joinedWait => s.startMeasuring
      | _ => s
    else s
  | none => s

/-- R96: a PAIR JOINED. -/
def execJoinedReceived (dt : Time) (hdr : Header) (target : Station) (tag : Nat) (s : State) :
    Host.Outcome State Fault Refusal :=
  heardRow dt 4 hdr true false noFields (fun p => p.joinedHeard hdr.sender target tag) s

/-- A SENSE in HOLDING receives DONE (R98). -/
def Fc4.sensed (s : Fc4) : Fc4 :=
  let s1 := (s.setOutcome .sensed).mapRdv (fun r => { r with timer := none, quiet := true, state := .finishing })
  ({ s1 with link := s1.link.withdrawPair }).breakLines.liftIfFree

/-- A DONE reaches a SENSE (R98). -/
def Fc4.doneHeard (s : Fc4) (sender target : Station) (tag : Nat) : Fc4 :=
  let s1 := s.dropNote sender
  match s1.aimedRdv target tag with
  | some r =>
    if r.partner = sender ∧ r.role = .sense then
      match r.state with
      | .holding => s1.sensed
      | .heading | .landedWait | .linking => s1.endRendezvous .partnerAbandoned true
      | _ => s1
    else s1
  | none => s1

/-- R98: a PAIR DONE. -/
def execDoneReceived (dt : Time) (hdr : Header) (target : Station) (tag : Nat) (s : State) :
    Host.Outcome State Fault Refusal :=
  heardRow dt 4 hdr true false unlandedFields (fun p => p.doneHeard hdr.sender target tag) s

/-- The QUEUED entry of this tag and partner (R84, R103). -/
def Fc4.queuedEntry (s : Fc4) (partner : Station) (tag : Nat) : Option Entry :=
  s.work.list.find? (fun e => decide (e.st = .queued) &&
    decide (e.terms.map (fun t => (t.partner, t.tag)) = some (partner, tag)))

/-- Removal at the Pair Unit's request (R84); the start conditions are tested after it. -/
def Fc4.removeAbandoned (s : Fc4) (partner : Station) (tag : Nat) : Fc4 :=
  match s.queuedEntry partner tag with
  | some e => (s.produceResult e.id (buildResult e .partnerAbandoned none none)).testStart
  | none => s

/-- An ABANDON reaches the Pair Unit (R103, R106). -/
def Fc4.abandonHeard (s : Fc4) (sender target : Station) (tag : Nat) : Fc4 :=
  let s1 := s.dropNote sender
  if target = s1.own then
    match s1.aimedRdv target tag with
    | some r => if r.partner = sender ∧ r.state ≠ .finishing then s1.endRendezvous .partnerAbandoned true else s1
    | none => s1.removeAbandoned sender tag
  else s1

/-- R103: a PAIR ABANDON; its reason is not acted on. -/
def execAbandonReceived (dt : Time) (hdr : Header) (target : Station) (reason tag : Nat) (s : State) :
    Host.Outcome State Fault Refusal :=
  let _ := reason
  heardRow dt 4 hdr true false unlandedFields (fun p => p.abandonHeard hdr.sender target tag) s

/-! ### Frames without a consumer -/

/-- R25: a STATUS of a peer. -/
def execStatusHeard (dt : Time) (hdr : Header) (s : State) : Host.Outcome State Fault Refusal :=
  heardRow dt 10 hdr true false noFields id s

/-- R25: a RESULT of a peer. -/
def execResultHeard (dt : Time) (hdr : Header) (s : State) : Host.Outcome State Fault Refusal :=
  heardRow dt 15 hdr true false noFields id s

/-- R3, R21: a frame of kind 11 to 15. -/
def execUnassignedFrame (dt : Time) (hdr : Header) (s : State) : Host.Outcome State Fault Refusal :=
  heardRow dt 0 hdr true false noFields id s

/-- R3, R21: a frame whose sender is not valid for its kind. -/
def execInvalidSenderFrame (dt : Time) (hdr : Header) (s : State) : Host.Outcome State Fault Refusal :=
  heardRow dt 0 hdr true false noFields id s

/-- R195: a passing frame that is not well formed. -/
def execMalformedFrame (dt : Time) (hdr : Header) (s : State) : Host.Outcome State Fault Refusal :=
  heardRow dt 0 hdr false false noFields id s

/-- R27: a heard frame fails the check. -/
def execCheckFailure (dt : Time) (s : State) : Host.Outcome State Fault Refusal :=
  rowEffect dt (fun p => onlyIf (p.hears earliestFailure) (fun p => p.trustNoPeer.recheck) p) s

/-! ### Silence (R28, R54, R104) -/

/-- The record's silence time is over. -/
def silenceOver (r : PeerRecord) (now : Time) : Bool :=
  !decide (r.presence = .silent) && decide (r.lastHeard + silenceTime ≤ now)

/-- The peer's record becomes SILENT; an ask to it ends (R28, R54). -/
def Fc4.peerSilent (s : Fc4) (peer : Station) (r : PeerRecord) : Fc4 :=
  let s1 := { s with view := { s.view with peers := tablePut peer.val (silence s.ctl.side r) s.view.peers } }
  if s1.resv.ask.map Ask.target = some peer then s1.endAsk else s1

/-- R28: 8,000 µs since `peer` was last heard. -/
def execPeerSilence (dt : Time) (peer : Station) (s : State) : Host.Outcome State Fault Refusal :=
  rowEffect dt (fun p =>
    match p.record peer with
    | some r => onlyIf (p.receiving && silenceOver r p.now) (fun p => (p.peerSilent peer r).pairRecheck.recheck) p
    | none => p) s

end Sys2Proof.Machine
end

