-- ==== Sys2Proof/Machine/ReservationRows.lean ====
section
/-! DEFINITION. The timers of the Reservation Unit and of the line table (chapters 02 and 03). -/

namespace Sys2Proof.Machine

/-- The rest-until of the line has been reached. -/
def Fc4.restReached (s : Fc4) (l : Line) : Bool :=
  match restOf s.view.rests l with
  | some t => decide (t ≤ s.now)
  | none => false

/-- R34: the rest of `line` is over; the change is seen at the next examination. -/
def execLineRestExpiry (dt : Time) (line : Line) (s : State) : Host.Outcome State Fault Refusal :=
  rowEffect dt (fun p => onlyIf (p.restReached line)
    (fun p => { p with view := { p.view with rests := setRest p.view.rests line none } }) p) s

/-- A blocked claim whose CLAIM slot is empty, 50 µs or more after the timer's last tick (R46, log 13). -/
def Fc4.recheckTimerDue (s : Fc4) : Bool :=
  s.resv.claim.isSome && s.resv.blockedSince.isSome && s.link.claim.isNone &&
  (match s.resv.recheckDue with
    | some t => decide (t ≤ s.now)
    | none => true)

/-- R46: the 50 µs timer. -/
def execClaimRecheckTimer (dt : Time) (s : State) : Host.Outcome State Fault Refusal :=
  rowEffect dt (fun p => onlyIf p.recheckTimerDue
    (fun p => ({ p with resv := { p.resv with recheckDue := some (p.now + recheckPeriod) } }).recheck) p) s

/-- The MOVE claim that has been blocked for 500 ms (R55). -/
def Fc4.overdueClaim (s : Fc4) : Option Claim :=
  match s.resv.claim, s.resv.blockedSince with
  | some c, some t => if c.kind = .move ∧ t + giveUpTime ≤ s.now then some c else none
  | _, _ => none

/-- R55: the MOVE claim is given up. -/
def execClaimGiveUp (dt : Time) (s : State) : Host.Outcome State Fault Refusal :=
  rowEffect dt (fun p =>
    match p.overdueClaim with
    | some c => p.giveUp c
    | none => p) s

/-- The shadow is the one kept for `asker`, and its expiry has been reached. -/
def shadowOver (now : Time) (asker : Station) (sh : Shadow) : Bool :=
  decide (sh.asker = asker.val) && decide (sh.expiry ≤ now)

/-- R62: the shadow kept for `asker` expires, and a blocked claim is examined (R46). -/
def execYieldShadowExpiry (dt : Time) (asker : Station) (s : State) : Host.Outcome State Fault Refusal :=
  rowEffect dt (fun p => onlyIf (p.resv.shadows.any (shadowOver p.now asker))
    (fun p =>
      let left := p.resv.shadows.filter (fun sh => !shadowOver p.now asker sh)
      ({ p with resv := { p.resv with shadows := left } }).recheck) p) s

end Sys2Proof.Machine
end

