-- ==== Sys2Proof/Machine/MotionRows.lean ====
section
/-! DEFINITION. Moves, drive reports, descents, contact, overload and lifts (chapter 06); the rendezvous timer. -/

namespace Sys2Proof.Machine

/-! ### Moves (R111, R112, R115) -/

/-- The conditions of a move's command (R111). -/
def Fc4.canMove (s : Fc4) : Bool :=
  decide (s.motion.axis = .standing) && decide (s.motion.zState = .raised) && s.link.linkDown.isNone &&
  !s.anyAxisFault

/-- MOVE is sent to both drives, and the move is recorded from the current position (R111). -/
def Fc4.commandMove (s : Fc4) (m : Permitted) : Fc4 :=
  { s with motion := { s.motion with
      axis := .moving, outX := .moveTo m.q.x, outY := .moveTo m.q.y, move := some ⟨s.here, m.q, m.purpose⟩
      permitted := none, ax := { s.motion.ax with answered := false }, ay := { s.motion.ay with answered := false } } }

/-- R111: the conditions of a move hold. -/
def execMoveCommand (dt : Time) (s : State) : Host.Outcome State Fault Refusal :=
  rowEffect dt (fun p =>
    match p.motion.permitted with
    | some m => onlyIf p.canMove (fun p => p.commandMove m) p
    | none => p) s

/-- The axis has reported IN_POSITION at `target` since its MOVE (R112). -/
def axisArrived (a : AxisRec) (target : Nat) : Bool :=
  a.answered && a.inPosition && decide (a.pos = target) && !a.fault

/-- The move that ends: in MOVING, both axes have reported IN_POSITION at their targets (R112). -/
def Fc4.arrivedMove (s : Fc4) : Option Move :=
  if s.motion.axis = .moving then
    s.motion.move.filter (fun m => axisArrived s.motion.ax m.q.x && axisArrived s.motion.ay m.q.y)
  else none

/-- A yield is due and the move has ended at the haven: its arrival carries out the yield (R58, R60). -/
def Fc4.yieldArrives (s : Fc4) : Bool := s.resv.yieldDue && decide (s.here = s.geo.haven)

/-- A TOUCH move has ended (R79, R101, R112). -/
def Fc4.touchMoveEnds (s : Fc4) : Fc4 :=
  if s.yieldArrives then (s.yieldEndsTouch.answerAsks .arrival).pauseCheck.testStart
  else
    let s1 := s.releaseDue .moveEnd
    match s1.pair.rdv.bind Rendezvous.outcome, s1.activeEntry with
    | some o, _ => s1.endTouch o
    | none, some e => if s1.resv.yieldDue then s1.yieldEndsTouch.beginYield else s1.enterDescent e
    | none, none => s1

/-- A PARK move has ended at the haven (R112, R125). -/
def Fc4.parkMoveEnds (s : Fc4) : Fc4 :=
  let s1 := { s with motion := { s.motion with park := false } }
  if s1.yieldArrives then (s1.answerAsks .arrival).testStart else s1.releaseDue .moveEnd

/-- A move ends (R112). -/
def Fc4.moveEnds (s : Fc4) (m : Move) : Fc4 :=
  let s1 := { s with motion := { s.motion with axis := .standing, move := none } }
  match m.purpose with
  | .touch => s1.touchMoveEnds
  | .park => s1.parkMoveEnds
  | .yield => (s1.answerAsks .arrival).testStart

/-- R112: both axes have reported IN_POSITION at their targets. -/
def execMoveEnd (dt : Time) (s : State) : Host.Outcome State Fault Refusal :=
  rowEffect dt (fun p =>
    match p.arrivedMove with
    | some m => p.moveEnds m
    | none => p) s

/-- The carriage stands after the stop (R115); the Reservation Unit is told (R63, R64). -/
def Fc4.carriageStands (s : Fc4) : Fc4 :=
  ({ s with motion := { s.motion with axis := .standing, move := none, stopFrom := none } }).releaseDue .carriageStands

/-- R115: both axes are stopped after the STOP of an entry to STOPPED. -/
def execCarriageStopped (dt : Time) (s : State) : Host.Outcome State Fault Refusal :=
  rowEffect dt (fun p =>
    onlyIf (decide (p.ctl.mode = .stopped) && decide (p.motion.axis = .stopping) && p.bothStopped)
      Fc4.carriageStands p) s

/-! ### Drive reports and axis faults (R110, R113, R114) -/

/-- One coordinate of a position. -/
def along (a : Axis) (p : Pos) : Nat :=
  match a with
  | .x => p.x
  | .y => p.y

/-- What the axis last reported. -/
def Motion.axisRec (m : Motion) : Axis → AxisRec
  | .x => m.ax
  | .y => m.ay

/-- The position is inside the allowed interval of the axis (R113). -/
def Motion.allowedAt (m : Motion) (a : Axis) (v : Nat) : Bool :=
  match m.axis, m.move, m.stopFrom with
  | .moving, some mv, _ => between (along a mv.p) (along a mv.q) v
  | .stopping, some mv, some from_ => between (along a from_) (along a mv.q) v
  | .standing, _, _ => decide (v = (m.axisRec a).pos)
  | _, _, _ => true

/-- The report is a fault of its axis (R113). -/
def Motion.irregular (m : Motion) (a : Axis) (r : AxisReport) : Bool :=
  r.fault ||
  (decide (m.axis = .standing) && !r.inPosition) ||
  (match m.axis, m.move with
    | .moving, some mv => r.inPosition && !decide (r.pos = along a mv.q)
    | _, _ => false) ||
  (!(m.axisRec a).fault && !m.allowedAt a r.pos)

/-- The axis's fault after the report (R113); a set fault allows every position. -/
def Motion.faultAfter (m : Motion) (a : Axis) (r : AxisReport) : Bool :=
  m.irregular a r || ((m.axisRec a).fault && !r.inPosition)

/-- The report taken into the axis's record. -/
def Motion.takeReport (m : Motion) (a : Axis) (r : AxisReport) : Motion :=
  let rec' : AxisRec := ⟨r.pos, r.inPosition, m.faultAfter a r, true⟩
  match a with
  | .x => { m with ax := rec' }
  | .y => { m with ay := rec' }

/-- Mode Control is told of the report's fault: where the axis's fault becomes set (R114), and in STARTING at every report
that is a fault, also from a drive whose fault was set before (R129). -/
def Fc4.tellsFault (s : Fc4) (a : Axis) (r : AxisReport) : Bool :=
  s.motion.irregular a r && (!(s.motion.axisRec a).fault || decide (s.ctl.mode = .starting))

/-- Mode Control acts on a fault by the mode (R114, R129). -/
def Fc4.axisFaulted (s : Fc4) : Fc4 :=
  match s.ctl.mode with
  | .starting => { s with motion := { s.motion with faultSeen := true } }
  | .cfgFault => s
  | .stopped =>
    if s.ctl.reason = .axisFault ∨ s.ctl.reason = .linkCutoff ∨ s.ctl.reason = .dupStation then s
    else s.reasonAxisFault
  | _ => s.enterStopped .axisFault

/-- R110, R113, R114, R129: a report of the drive of `axis`. During a reset and at a station strapped 0 it is only
taken (log 31). -/
def execAxisReport (dt : Time) (axis : Axis) (report : AxisReport) (s : State) : Host.Outcome State Fault Refusal :=
  rowEffect dt (fun p =>
    let p1 := { p with motion := p.motion.takeReport axis report }
    if p.receiving && p.tellsFault axis report then p1.axisFaulted else p1) s

/-! ### Descent, search and touchdown (R117 to R121) -/

/-- The conditions of a descent to `pad` (R117). -/
def Fc4.canDescend (s : Fc4) (pad : Pos) : Bool :=
  decide (s.motion.axis = .standing) && decide (s.here = pad) && decide (s.motion.zState = .raised) &&
  s.link.touch.isNone && s.link.linkDown.isNone && !s.anyAxisFault

/-- The fast target (R117). -/
def fastTarget (g : ImageConfig) (p : Nat) : Nat := p - g.margin

/-- The search limit (R117). -/
def searchLimit (g : ImageConfig) (p : Nat) : Nat := min zMax (p + g.depth)

/-- Z is in SEARCH at `z`, and the first sample follows (R117, R118). -/
def Motion.beginSearch (m : Motion) (z : Nat) (now : Time) : Motion :=
  { m with zState := .search, z, nextSample := now + contactPeriod }

/-- A descent begins (R117). -/
def Fc4.beginDescent (s : Fc4) (pad : Pos) (p : Nat) : Fc4 :=
  let t := fastTarget s.geo p
  let m := { s.motion with descent := some ⟨pad, p, t, searchLimit s.geo p⟩, handed := none, filter := 0 }
  { s with motion := if t = 0 then m.beginSearch 0 s.now else { m with zState := .fastDescent } }

/-- R117: the conditions of a descent hold. -/
def execDescentBegin (dt : Time) (s : State) : Host.Outcome State Fault Refusal :=
  rowEffect dt (fun p =>
    match p.motion.handed with
    | some (pad, h) => onlyIf (p.canDescend pad) (fun p => p.beginDescent pad h) p
    | none => p) s

/-- R117: Z reaches the fast target. -/
def execFastTargetReached (dt : Time) (s : State) : Host.Outcome State Fault Refusal :=
  rowEffect dt (fun p =>
    match p.motion.zState, p.motion.descent with
    | .fastDescent, some d => { p with motion := p.motion.beginSearch d.fastTarget p.now }
    | _, _ => p) s

/-- The search limit of the descent under way. -/
def Motion.limit (m : Motion) : Nat := (m.descent.map Descent.limit).getD 0

/-- The contact input is sampled at this instant: in SEARCH above the limit, or in LANDED until a loss has been
reported, 20 µs or more after the sample before, and not once the run count has reached 3 (R118, R120, log 10). -/
def Motion.sampleDue (m : Motion) (now : Time) : Bool :=
  decide (m.nextSample ≤ now) && decide (m.filter < 3) &&
  ((decide (m.zState = .search) && decide (m.z < m.limit)) || (decide (m.zState = .landed) && !m.lostReported))

/-- One sample: the run count of asserted samples in SEARCH, with Z 1 µm deeper, or of deasserted ones in LANDED
(R118, R120). -/
def Motion.sample (m : Motion) (asserted : Bool) (now : Time) : Motion :=
  let counts := if m.zState = .search then asserted else !asserted
  { m with filter := if counts then m.filter + 1 else 0
           z := if m.zState = .search then m.z + 1 else m.z
           nextSample := now + contactPeriod }

/-- R118, R120: the contact input is sampled. -/
def execContactInputSample (dt : Time) (asserted : Bool) (s : State) : Host.Outcome State Fault Refusal :=
  rowEffect dt (fun p => onlyIf (p.motion.sampleDue p.now)
    (fun p => { p with motion := p.motion.sample asserted p.now }) p) s

/-- The report of a touchdown (R121). -/
def Fc4.touchFill (s : Fc4) (e : Entry) : TouchFill :=
  ⟨s.here, s.motion.z, (e.terms.map PairTerms.tag).getD 0, e.terms.map PairTerms.role⟩

/-- Z stops, LANDED is entered, TOUCH is filled and the height is taken as a sample (R118, R121, R133). -/
def Fc4.land (s : Fc4) (e : Entry) : Fc4 :=
  { s with
      motion := { s.motion with zState := .landed, filter := 0, lostReported := false
                                nextSample := s.now + contactPeriod }
      link := s.link.fillTouch (s.touchFill e)
      heights := takeSample s.heights s.here s.motion.z
      work := { s.work with touch := s.work.touch.map (fun t =>
                  { t with height := some s.motion.z, stage := .measure }) } }

/-- The touch goes on after its touchdown: a CAPR measurement starts (R81); a paired touch waits for its partner
(R92, R93), or lifts where its outcome is already set (R101). -/
def Fc4.afterTouchdown (s : Fc4) (e : Entry) : Fc4 :=
  match s.pair.rdv with
  | none => s.startSolo e
  | some r =>
    if r.state = .heading then
      (s.mapRdv (fun r => { r with state := .landedWait, timer := some (s.now + rendezvousTime) })).meet
    else s.goLift

/-- R118: the contact filter has counted three asserted samples. -/
def execTouchdown (dt : Time) (s : State) : Host.Outcome State Fault Refusal :=
  rowEffect dt (fun p =>
    match p.activeEntry with
    | some e =>
      onlyIf (decide (p.motion.zState = .search) && decide (p.motion.filter = 3))
        (fun p => (p.land e).afterTouchdown e) p
    | none => p) s

/-- R119: the sample at the search limit has not confirmed contact. -/
def execNoContact (dt : Time) (s : State) : Host.Outcome State Fault Refusal :=
  rowEffect dt (fun p =>
    onlyIf (decide (p.motion.zState = .search) && decide (p.motion.z = p.motion.limit) && decide (p.motion.filter < 3))
      (fun p => p.failSearch .noContact) p) s

/-- R120: three deasserted samples while landed; reported once. It acts as R81 and R105 say, and so changes no outcome
that has been set; none is before the end of a final discharge (R157, log 20). -/
def execContactLost (dt : Time) (s : State) : Host.Outcome State Fault Refusal :=
  rowEffect dt (fun p =>
    onlyIf (decide (p.motion.zState = .landed) && decide (p.motion.filter = 3) && !p.motion.lostReported)
      (fun p => ({ p with motion := { p.motion with lostReported := true } }).failLanded .contactLost) p) s

/-- The comparator is armed (R116, R123); a search that has confirmed contact is past it until it has landed. -/
def Motion.armed (m : Motion) : Bool :=
  (decide (m.zState = .search) && decide (m.filter < 3)) || decide (m.zState = .landed)

/-- The sample at the search limit has been taken: the search has ended, Z holds there in SEARCH, and its NO_CONTACT
is being reported (R119, log 10). -/
def Motion.searchOver (m : Motion) : Bool := decide (m.z = m.limit)

/-- R123: the coil current exceeds the overload level. The latch acts by the Z state; after the sample at the search
limit it leaves the outcome of that sample, NO_CONTACT (R119). -/
def execOverloadLatch (dt : Time) (current : Nat) (s : State) : Host.Outcome State Fault Refusal :=
  rowEffect dt (fun p =>
    onlyIf (p.motion.armed && !p.motion.latch && decide (p.geo.overloadLevel < current))
      (fun p =>
        let p1 := { p with motion := { p.motion with latch := true } }
        if p.motion.zState = .search then (if p.motion.searchOver then p1 else p1.failSearch .overload)
        else p1.failLanded .overload) p) s

/-! ### Lift and rendezvous timer (R102, R122) -/

/-- A lift that has begun: the reset lift begins only after the reset discharge (R129, R163). -/
def Fc4.lifting (s : Fc4) : Bool :=
  decide (s.motion.zState = .lifting) && !s.meas.purposeIs .reset && s.ctl.resetHold.isNone

/-- R122: Z reaches 0. -/
def execLiftEnd (dt : Time) (s : State) : Host.Outcome State Fault Refusal :=
  rowEffect dt (fun p => onlyIf p.lifting Fc4.liftEnded p) s

/-- The rendezvous timer has expired. -/
def Fc4.timerOver (s : Fc4) : Bool :=
  match s.pair.rdv.bind Rendezvous.timer with
  | some t => decide (t ≤ s.now)
  | none => false

/-- R102: the rendezvous timer expires. -/
def execRendezvousTimeout (dt : Time) (s : State) : Host.Outcome State Fault Refusal :=
  rowEffect dt (fun p => onlyIf p.timerOver (fun p => p.endRendezvous .partnerTimeout false) p) s

end Sys2Proof.Machine
end

