-- ==== Sys2Proof/Machine/MeasureRows.lean ====
section
/-! DEFINITION. Samples, timings and discharges as rows (chapter 08). -/

namespace Sys2Proof.Machine

/-- The measurement record is in state `st`, and its next sample is due (R144, R147). -/
def Meas.sampleDueIn (m : Meas) (st : MeasState) (now : Time) : Bool :=
  decide (m.state = st) && decide (m.sampleDue ≤ now)

/-- The measurement record changed by `f`. -/
def Fc4.mapMeas (s : Fc4) (f : Meas → Meas) : Fc4 := { s with meas := f s.meas }

/-- R144, R145, R149: a converter sample in ZEROING or INTEGRATING. -/
def execConverterSample (dt : Time) (code : Code) (s : State) : Host.Outcome State Fault Refusal :=
  rowEffect dt (fun p =>
    onlyIf (p.meas.sampleDueIn .zeroing p.now || p.meas.sampleDueIn .integrating p.now)
      (fun p => p.mapMeas (fun m => m.converterSample code.toNat p.now)) p) s

/-- R147: settle sample a. -/
def execSettleSampleA (dt : Time) (code : Code) (s : State) : Host.Outcome State Fault Refusal :=
  rowEffect dt (fun p =>
    onlyIf (p.meas.sampleDueIn .settling p.now && p.meas.sampleA.isNone)
      (fun p => p.mapMeas (fun m => m.takeA code.toNat p.now)) p) s

/-- R147, R148: settle sample b, its check, and ranging. -/
def execSettleCheck (dt : Time) (code : Code) (s : State) : Host.Outcome State Fault Refusal :=
  rowEffect dt (fun p =>
    onlyIf (p.meas.sampleDueIn .settling p.now && p.meas.sampleA.isSome)
      (fun p => p.mapMeas (fun m => m.checkB code.toNat p.now)) p) s

/-- R152: the probe voltage reaches 1.000 V; the count stands at its value then. -/
def execTimingCrossing (dt : Time) (s : State) : Host.Outcome State Fault Refusal :=
  rowEffect dt (fun p =>
    onlyIf (decide (p.meas.state = .timing) && decide (p.meas.timingCount p.now < 65535))
      (fun p => p.mapMeas (fun m => m.endTiming (some (m.timingCount p.now)) p.geo.stray p.now)) p) s

/-- R152: the count reaches 65,535. -/
def execTimingTimeout (dt : Time) (s : State) : Host.Outcome State Fault Refusal :=
  rowEffect dt (fun p =>
    onlyIf (decide (p.meas.state = .timing) && decide (65535 ≤ p.meas.timingCount p.now))
      (fun p => p.mapMeas (fun m => m.endTiming none p.geo.stray p.now)) p) s

/-- A discharge of purpose `d` is over. -/
def Fc4.dischargedFor (s : Fc4) (d : DischargePurpose) : Bool := s.meas.purposeIs d && s.meas.dischargeOver s.now

/-- R153: the 200 µs discharge ends, and the next timing starts. -/
def execBetweenDischargeEnd (dt : Time) (s : State) : Host.Outcome State Fault Refusal :=
  rowEffect dt (fun p => onlyIf (p.dischargedFor .between)
    (fun p => p.mapMeas (fun m => m.goTiming m.rangeNow p.now)) p) s

/-- R157: the final discharge ends; an aborted one ends as an abort (R161). -/
def execFinalDischargeEnd (dt : Time) (s : State) : Host.Outcome State Fault Refusal :=
  rowEffect dt (fun p => onlyIf (p.dischargedFor .final) Fc4.finalDischargeOver p) s

/-- R161: an abort discharge ends, or a final discharge that an abort has turned into one. -/
def execAbortDischargeEnd (dt : Time) (s : State) : Host.Outcome State Fault Refusal :=
  rowEffect dt (fun p =>
    onlyIf (p.dischargedFor .abort || (p.dischargedFor .final && p.meas.computed.isNone)) Fc4.abortEnded p) s

/-- R163: the reset discharge ends; the reset lift may begin (R129). -/
def execResetDischargeEnd (dt : Time) (s : State) : Host.Outcome State Fault Refusal :=
  rowEffect dt (fun p => onlyIf (p.ctl.resetHold.isNone && p.dischargedFor .reset)
    Fc4.resetDischarged p) s

end Sys2Proof.Machine
end

