-- ==== Sys2Proof/Machine/CommandRows.lean ====
section
/-! DEFINITION. Frames of the sequencer: LOAD (chapter 04), HALT and the commands (chapter 10). -/

namespace Sys2Proof.Machine

/-- A frame of station 0 with a payload of `len` bytes has been heard; `f` is what it does, and a blocked claim is examined after it (R46). -/
def sequencerRow (dt : Time) (len : Nat) (f : Fc4 → Fc4) (s : State) : Host.Outcome State Fault Refusal :=
  rowEffect dt (fun p => onlyIf (p.hears (frameTime len)) (fun p => (f p.lineUsed).recheck) p) s

/-! ### LOAD (R69 to R71, R196) -/

/-- The kind of a record's kind code (R196). -/
def kindOfRecord (c : Nat) : Option TouchKind := [none, some TouchKind.cont, some .iso, some .capr][c]?.join

/-- Role, partner and tag of a CONT or ISO record, where they hold a meaning (R70, R196). -/
def pairTermsOf (own : Station) (r : LoadRecord) : Option PairTerms :=
  match roleOfCode r.roleCode with
  | some (some role) =>
    if r.tag = 0 ∨ r.partner = 0 ∨ 15 < r.partner ∨ r.partner = own.val then none
    else some ⟨role, Fin.ofNat 16 r.partner, r.tag⟩
  | _ => none

/-- The greatest range hint of a kind (R67, R70). -/
def hintLimit : TouchKind → Nat
  | .capr => 2
  | _ => 5

/-- The entry of a record that BAD_RECORD does not apply to (R67, R70, R196). -/
def entryOf (own : Station) (r : LoadRecord) : Option Entry :=
  match kindOfRecord r.kindCode with
  | none => none
  | some kind =>
    let hint := if r.hintPresent then some r.hint else none
    let approach := if r.approachPresent then some r.approach else none
    let sound := !decide (r.touchId = 0) && decide (r.low ≤ r.high) && decide (hint.getD 0 ≤ hintLimit kind) &&
      decide (approach.getD 0 ≤ zMax)
    let entry := fun terms =>
      { id := r.touchId, pad := r.pad, kind, terms, low := r.low, high := r.high, hint, approach
        deferCount := 0, st := .queued, held := none : Entry }
    if sound then
      match kind with
      | .capr => if r.roleCode = 0 ∧ r.partner = 0 ∧ r.tag = 0 then some (entry none) else none
      | _ => (pairTermsOf own r).map (fun t => entry (some t))
    else none

/-- The judgement of a record against the list as it stands (R70). -/
def Fc4.judgeRecord (s : Fc4) (r : LoadRecord) : Except RefusalCode Entry :=
  match entryOf s.own r with
  | none => .error .badRecord
  | some e =>
    if !allowed s.geo e.pad then .error .unreachable
    else if listMax ≤ s.work.list.length then .error .full
    else if s.work.list.any (fun o => decide (o.id = e.id)) then .error .duplicateId
    else if e.terms.isSome && s.work.list.any (fun o => decide (o.terms.map PairTerms.tag = e.terms.map PairTerms.tag))
    then .error .duplicateTag
    else .ok e

/-- A record is appended, or its refusal joins the refusal list (R70, R71, R172). -/
def Fc4.loadRecord (s : Fc4) (r : LoadRecord) : Fc4 :=
  match s.judgeRecord r with
  | .ok e => s.mapList (fun l => l ++ [e])
  | .error code => { s with results := s.results.refuse r.touchId code }

/-- A LOAD with the own number as target (R69). -/
def Fc4.load (s : Fc4) (records : List LoadRecord) : Fc4 :=
  if s.ctl.mode = .starting ∨ s.ctl.mode = .cfgFault then s.reportCommand .load .busy
  else ((records.foldl Fc4.loadRecord s).reportCommand .load .accepted).testStart

/-- R69: a LOAD. -/
def execLoadReceived (dt : Time) (target : Station) (records : List LoadRecord) (s : State) :
    Host.Outcome State Fault Refusal :=
  sequencerRow dt (1 + 22 * records.length) (fun p => if target = p.own then p.load records else p) s

/-! ### HALT (R190) -/

/-- R190: a HALT acts whatever its target. -/
def execHalt (dt : Time) (target : Station) (s : State) : Host.Outcome State Fault Refusal :=
  let _ := target
  sequencerRow dt 0 (fun p => if working p.ctl.mode then p.enterStopped .halt else p) s

/-! ### Commands (R186, R187) -/

/-- A command aimed at this station or at all: taken with effect `f`, or refused with BUSY; the outcome is handed
over after the effect (R187). -/
def commandEffect (c : Command) (target : Station) (taken : Fc4 → Bool) (f : Fc4 → Fc4) (s : Fc4) : Fc4 :=
  if target = s.own ∨ target = 0 then
    if taken s then (f s).reportCommand c .accepted else s.reportCommand c .busy
  else s

/-- IDLE or PAUSED, where the list is held still. -/
def resting (m : Mode) : Bool := decide (m = .idle) || decide (m = .paused)

/-- The mode becomes `m`. -/
def Fc4.setMode (s : Fc4) (m : Mode) : Fc4 := { s with ctl := { s.ctl with mode := m } }

/-- START is taken (R125, R186). -/
def Fc4.takesStart (s : Fc4) : Bool := resting s.ctl.mode && !(decide (s.ctl.mode = .idle) && s.motion.park)

/-- R187: START. -/
def execStart (dt : Time) (target : Station) (s : State) : Host.Outcome State Fault Refusal :=
  sequencerRow dt 1 (commandEffect .start target Fc4.takesStart (fun p => (p.setMode .running).testStart)) s

/-- PAUSE: to PAUSED with no touch in progress, else to PAUSING (R188). -/
def Fc4.pauseNow (s : Fc4) : Fc4 := ((s.setMode .pausing).pauseCheck).refreshWaiting

/-- R188: PAUSE. -/
def execPause (dt : Time) (target : Station) (s : State) : Host.Outcome State Fault Refusal :=
  sequencerRow dt 1 (commandEffect .pause target (fun p => decide (p.ctl.mode = .running)) Fc4.pauseNow) s

/-- PURGE is taken (R85, R186). -/
def takesPurge (m : Mode) : Bool := resting m || decide (m = .stopped)

/-- R85: PURGE. -/
def execPurge (dt : Time) (target : Station) (s : State) : Host.Outcome State Fault Refusal :=
  sequencerRow dt 1 (commandEffect .purge target (fun p => takesPurge p.ctl.mode)
    (fun p => (p.mapList (fun _ => [])).refreshWaiting)) s

/-- PARK is taken (R125, R186). One that meets both a PARK in progress and a due yield is refused with BUSY: each rule
has a sentence for it and no order between them (DESIGN CHOICE, log 42). -/
def Fc4.takesPark (s : Fc4) : Bool := decide (s.ctl.mode = .idle) && !s.resv.yieldDue

/-- PARK sets out for the haven; where one is in progress it changes nothing (R125). -/
def Fc4.parkNow (s : Fc4) : Fc4 :=
  if s.motion.park then s else ({ s with motion := { s.motion with park := true } }).parkProceeds

/-- R125: PARK. -/
def execPark (dt : Time) (target : Station) (s : State) : Host.Outcome State Fault Refusal :=
  sequencerRow dt 1 (commandEffect .park target Fc4.takesPark Fc4.parkNow) s

/-- R186: QUERY. -/
def execQuery (dt : Time) (target : Station) (s : State) : Host.Outcome State Fault Refusal :=
  sequencerRow dt 1 (commandEffect .query target (fun p => !decide (p.ctl.mode = .starting)) id) s

/-- R187: a COMMAND whose code has no meaning is ignored. -/
def execUnknownCommand (dt : Time) (target : Station) (code : Byte) (s : State) : Host.Outcome State Fault Refusal :=
  let _ := target
  let _ := code
  sequencerRow dt 1 id s

/-! ### CLEAR (R193, R194) -/

/-- The stop is settled (R191); the carriage has been reported stopped (log 22). -/
def Fc4.stopSettled (s : Fc4) : Bool :=
  s.bothStopped && decide (s.motion.axis = .standing) && decide (s.motion.zState = .raised) &&
  decide (s.meas.state = .idle)

/-- The test of R64 on the position the axes report. -/
def Fc4.positionTrusted (s : Fc4) : Bool :=
  allowed s.geo s.here && (s.resv.heldBox.map (inside s.standing)).getD false

/-- The judgement of a CLEAR (R193). -/
def Fc4.judgeClear (s : Fc4) : CommandOutcome :=
  if s.ctl.mode = .stopped then
    match s.ctl.reason with
    | .linkCutoff | .dupStation => .notClearable
    | .crowded => if s.stopSettled && !s.crowded then .accepted else .busy
    | .axisFault => if s.stopSettled && !s.anyAxisFault && s.positionTrusted then .accepted else .busy
    | _ => if s.stopSettled then .accepted else .busy
  else .busy

/-- An accepted CLEAR (R64, R124, R194). -/
def Fc4.clearStop (s : Fc4) : Fc4 :=
  let s1 := if s.ctl.reason = .axisFault then s.releaseDue .axisFaultCleared else s
  { s1 with ctl := { s1.ctl with mode := .idle, reason := .noReason, axisFaulted := false }
            motion := { s1.motion with latch := false } }

/-- R193: CLEAR. -/
def execClear (dt : Time) (target : Station) (s : State) : Host.Outcome State Fault Refusal :=
  sequencerRow dt 1 (fun p =>
    if target = p.own ∨ target = 0 then
      let o := p.judgeClear
      (if o = .accepted then p.clearStop else p).reportCommand .clear o
    else p) s

/-! ### RESET (R181, R186) -/

/-- R186: a taken RESET begins and ends at the completion of its frame; in STARTING it is refused with BUSY. -/
def execReset (dt : Time) (target : Station) (straps : Straps) (reading : CarriageReading) (s : State) :
    Host.Outcome State Fault Refusal :=
  rowEffect dt (fun p => onlyIf (p.hears (frameTime 1))
    (fun p0 =>
      let p := p0.lineUsed
      if target = p.own ∨ target = 0 then
        if p.ctl.mode = .starting then (p.reportCommand .reset .busy).recheck
        else (p.resetNow .commanded ⟨false, false, false⟩ reading).endReset straps
      else p.recheck) p) s

end Sys2Proof.Machine
end

