-- ==== Sys2Proof/Machine/Dispatch.lean ====
section
/-! DEFINITION. One arm for each row of the table, each one direct call of the row's meaning. -/

namespace Sys2Proof.Machine

def exec (i : Instr) (s : State) : Host.Outcome State Fault Refusal :=
  match i with
  | .powerOn dt reading => Sys2Proof.Machine.execPowerOn dt reading s
  | .powerOnSettled dt straps => Sys2Proof.Machine.execPowerOnSettled dt straps s
  | .resetLineAsserted dt reading => Sys2Proof.Machine.execResetLineAsserted dt reading s
  | .resetLineReleased dt straps => Sys2Proof.Machine.execResetLineReleased dt straps s
  | .imageReadTimeout dt => Sys2Proof.Machine.execImageReadTimeout dt s
  | .imageJudged dt image => Sys2Proof.Machine.execImageJudged dt image s
  | .stopWaitEnd dt => Sys2Proof.Machine.execStopWaitEnd dt s
  | .joinWindowEnd dt => Sys2Proof.Machine.execJoinWindowEnd dt s
  | .offer dt rivals => Sys2Proof.Machine.execOffer dt rivals s
  | .bitFault dt passed => Sys2Proof.Machine.execBitFault dt passed s
  | .checkFailure dt => Sys2Proof.Machine.execCheckFailure dt s
  | .ownCopyFail dt => Sys2Proof.Machine.execOwnCopyFail dt s
  | .claimGranted dt => Sys2Proof.Machine.execClaimGranted dt s
  | .releaseCompleted dt => Sys2Proof.Machine.execReleaseCompleted dt s
  | .askSent dt => Sys2Proof.Machine.execAskSent dt s
  | .touchSent dt => Sys2Proof.Machine.execTouchSent dt s
  | .pairSent dt => Sys2Proof.Machine.execPairSent dt s
  | .beaconSent dt => Sys2Proof.Machine.execBeaconSent dt s
  | .statusSent dt => Sys2Proof.Machine.execStatusSent dt s
  | .resultSent dt => Sys2Proof.Machine.execResultSent dt s
  | .dupStationFrame dt => Sys2Proof.Machine.execDupStationFrame dt s
  | .transmitterCutOff dt => Sys2Proof.Machine.execTransmitterCutOff dt s
  | .linkDownEntry dt => Sys2Proof.Machine.execLinkDownEntry dt s
  | .linkDownEnd line => Sys2Proof.Machine.execLinkDownEnd line s
  | .beaconTimer dt => Sys2Proof.Machine.execBeaconTimer dt s
  | .beaconReceived dt hdr body => Sys2Proof.Machine.execBeaconReceived dt hdr body s
  | .claimReceived dt hdr body => Sys2Proof.Machine.execClaimReceived dt hdr body s
  | .releaseReceived dt hdr body => Sys2Proof.Machine.execReleaseReceived dt hdr body s
  | .askReceived dt hdr target body => Sys2Proof.Machine.execAskReceived dt hdr target body s
  | .touchReceived dt hdr body => Sys2Proof.Machine.execTouchReceived dt hdr body s
  | .joinedReceived dt hdr target tag => Sys2Proof.Machine.execJoinedReceived dt hdr target tag s
  | .doneReceived dt hdr target tag => Sys2Proof.Machine.execDoneReceived dt hdr target tag s
  | .abandonReceived dt hdr target reason tag => Sys2Proof.Machine.execAbandonReceived dt hdr target reason tag s
  | .statusHeard dt hdr => Sys2Proof.Machine.execStatusHeard dt hdr s
  | .resultHeard dt hdr => Sys2Proof.Machine.execResultHeard dt hdr s
  | .unassignedFrame dt hdr => Sys2Proof.Machine.execUnassignedFrame dt hdr s
  | .invalidSenderFrame dt hdr => Sys2Proof.Machine.execInvalidSenderFrame dt hdr s
  | .malformedFrame dt hdr => Sys2Proof.Machine.execMalformedFrame dt hdr s
  | .peerSilence dt peer => Sys2Proof.Machine.execPeerSilence dt peer s
  | .lineRestExpiry dt line => Sys2Proof.Machine.execLineRestExpiry dt line s
  | .claimRecheckTimer dt => Sys2Proof.Machine.execClaimRecheckTimer dt s
  | .claimGiveUp dt => Sys2Proof.Machine.execClaimGiveUp dt s
  | .yieldShadowExpiry dt asker => Sys2Proof.Machine.execYieldShadowExpiry dt asker s
  | .loadReceived dt target records => Sys2Proof.Machine.execLoadReceived dt target records s
  | .moveCommand dt => Sys2Proof.Machine.execMoveCommand dt s
  | .axisReport dt axis report => Sys2Proof.Machine.execAxisReport dt axis report s
  | .moveEnd dt => Sys2Proof.Machine.execMoveEnd dt s
  | .carriageStopped dt => Sys2Proof.Machine.execCarriageStopped dt s
  | .descentBegin dt => Sys2Proof.Machine.execDescentBegin dt s
  | .fastTargetReached dt => Sys2Proof.Machine.execFastTargetReached dt s
  | .touchdown dt => Sys2Proof.Machine.execTouchdown dt s
  | .noContact dt => Sys2Proof.Machine.execNoContact dt s
  | .contactLost dt => Sys2Proof.Machine.execContactLost dt s
  | .overloadLatch dt current => Sys2Proof.Machine.execOverloadLatch dt current s
  | .liftEnd dt => Sys2Proof.Machine.execLiftEnd dt s
  | .rendezvousTimeout dt => Sys2Proof.Machine.execRendezvousTimeout dt s
  | .converterSample dt code => Sys2Proof.Machine.execConverterSample dt code s
  | .settleSampleA dt code => Sys2Proof.Machine.execSettleSampleA dt code s
  | .settleCheck dt code => Sys2Proof.Machine.execSettleCheck dt code s
  | .timingCrossing dt => Sys2Proof.Machine.execTimingCrossing dt s
  | .timingTimeout dt => Sys2Proof.Machine.execTimingTimeout dt s
  | .betweenDischargeEnd dt => Sys2Proof.Machine.execBetweenDischargeEnd dt s
  | .finalDischargeEnd dt => Sys2Proof.Machine.execFinalDischargeEnd dt s
  | .abortDischargeEnd dt => Sys2Proof.Machine.execAbortDischargeEnd dt s
  | .resetDischargeEnd dt => Sys2Proof.Machine.execResetDischargeEnd dt s
  | .resultAgeTrigger dt => Sys2Proof.Machine.execResultAgeTrigger dt s
  | .halt dt target => Sys2Proof.Machine.execHalt dt target s
  | .start dt target => Sys2Proof.Machine.execStart dt target s
  | .pause dt target => Sys2Proof.Machine.execPause dt target s
  | .clear dt target => Sys2Proof.Machine.execClear dt target s
  | .purge dt target => Sys2Proof.Machine.execPurge dt target s
  | .park dt target => Sys2Proof.Machine.execPark dt target s
  | .query dt target => Sys2Proof.Machine.execQuery dt target s
  | .reset dt target straps reading => Sys2Proof.Machine.execReset dt target straps reading s
  | .unknownCommand dt target code => Sys2Proof.Machine.execUnknownCommand dt target code s
  | .contactInputSample dt asserted => Sys2Proof.Machine.execContactInputSample dt asserted s

end Sys2Proof.Machine
end

