-- ==== Sys2Proof/Machine/Hearing.lean ====
section
/-! DEFINITION. The Link Interface's judgement of what it hears: line levels to a frame (R1, R4, R5), and a
frame to the row of the table it is (R3, R17, R195). And the frame that a row of a heard frame stands for. -/

namespace Sys2Proof.Machine

/-- A frame as the receiver judges it (R5): it failed, or it passed with these bytes, its check taken off. -/
inductive HeardFrame
  | failed
  | passed (bytes : List Byte)
  deriving DecidableEq, Repr

/-- R5: the length byte tells where the frame ends; a length above 60, an idle line, a recessive start bit
or a wrong check fails it. -/
def hearBits (bits : List Bool) : HeardFrame :=
  match readBytes 3 bits with
  | none => .failed
  | some (head, rest) =>
    let len := fieldAt head 2 1
    if 60 < len then .failed
    else
      match readBytes (len + 2) rest with
      | none => .failed
      | some (tail, _) =>
        let frame := head ++ tail.take len
        if tail.drop len = crcBytes frame then .passed frame else .failed

/-- What the outside adds to the row of a frame: the time passed, and the pins and carriage as a reset
that the frame causes would find them. -/
structure Surroundings where
  dt      : Time
  straps  : Straps
  reading : CarriageReading
  deriving DecidableEq, Repr

/-- The COMMAND row of a command code (R186, R187). -/
def commandRow (e : Surroundings) (target : Station) (code : Byte) : Instr :=
  match code.toNat with
  | 1 => .start e.dt target
  | 2 => .pause e.dt target
  | 3 => .clear e.dt target
  | 4 => .purge e.dt target
  | 5 => .park e.dt target
  | 6 => .query e.dt target
  | 7 => .reset e.dt target e.straps e.reading
  | _ => .unknownCommand e.dt target code

/-- The row of a frame of a kind that its sender may send, with its payload (R5, R195). -/
def payloadRow (e : Surroundings) (kind : FrameKind) (hdr : Header) (target : Station) (p : List Byte) : Instr :=
  match kind with
  | .halt => if p.length = 0 then .halt e.dt target else .malformedFrame e.dt hdr
  | .release => (releaseOfPayload p).elim (.malformedFrame e.dt hdr) (fun b => .releaseReceived e.dt hdr b)
  | .ask => (askOfPayload p).elim (.malformedFrame e.dt hdr) (fun b => .askReceived e.dt hdr target b)
  | .claim => (claimOfPayload p).elim (.malformedFrame e.dt hdr) (fun b => .claimReceived e.dt hdr b)
  | .touch => (touchOfPayload p).elim (.malformedFrame e.dt hdr) (fun b => .touchReceived e.dt hdr b)
  | .pair =>
    match pairOfPayload p with
    | some (.joined, _, tag) => .joinedReceived e.dt hdr target tag
    | some (.done, _, tag) => .doneReceived e.dt hdr target tag
    | some (.abandon, reason, tag) => .abandonReceived e.dt hdr target reason tag
    | none => .malformedFrame e.dt hdr
  | .command =>
    match p with
    | [code] => commandRow e target code
    | _ => .malformedFrame e.dt hdr
  | .beacon => (beaconOfPayload p).elim (.malformedFrame e.dt hdr) (fun b => .beaconReceived e.dt hdr b)
  | .status => if statusWellFormed p then .statusHeard e.dt hdr else .malformedFrame e.dt hdr
  | .load => (loadOfPayload p).elim (.malformedFrame e.dt hdr) (fun rs => .loadReceived e.dt target rs)
  | .result => if resultWellFormed p then .resultHeard e.dt hdr else .malformedFrame e.dt hdr

/-- HALT, COMMAND and LOAD come from station 0, every other kind from a head (R3). -/
def senderValid (kind : FrameKind) (sender : Station) : Bool :=
  match kind with
  | .halt | .command | .load => decide (sender = 0)
  | _ => !decide (sender = 0)

/-- The row of the table that a heard frame is, at a station whose own number is `own` (R3, R5, R17). -/
def frameRow (own : Station) (e : Surroundings) : HeardFrame → Instr
  | .failed => .checkFailure e.dt
  | .passed bytes =>
    let b0 := fieldAt bytes 0 1
    let b1 := fieldAt bytes 1 1
    let hdr : Header := ⟨Fin.ofNat 16 (b0 % 16), Fin.ofNat 16 (b1 / 16)⟩
    if hdr.sender = own then .dupStationFrame e.dt
    else
      match kindOfCode (b0 / 16) with
      | none => .unassignedFrame e.dt hdr
      | some kind =>
        if senderValid kind hdr.sender then
          payloadRow e kind hdr (Fin.ofNat 16 (b1 % 16)) (bytes.drop 3)
        else .invalidSenderFrame e.dt hdr

/-- The frame that the row of a well-formed heard frame stands for: sequence numbers of station 0's frames,
which no receiver keeps, are `seq`. None for the rows whose payload the row does not carry. -/
def rowFrame (seq : Seq) : Instr → Option (List Byte)
  | .beaconReceived _ h b => some (frameBytes 7 h.sender h.seq 0 (beaconPayload b))
  | .claimReceived _ h b => some (frameBytes 3 h.sender h.seq 0 (claimPayload b))
  | .releaseReceived _ h b => some (frameBytes 1 h.sender h.seq 0 (releasePayload b))
  | .askReceived _ h t b => some (frameBytes 2 h.sender h.seq t (askPayload b))
  | .touchReceived _ h b => some (frameBytes 4 h.sender h.seq 0 (touchPayload b))
  | .joinedReceived _ h t tag => some (frameBytes 5 h.sender h.seq t (pairPayload .joined 0 tag))
  | .doneReceived _ h t tag => some (frameBytes 5 h.sender h.seq t (pairPayload .done 0 tag))
  | .abandonReceived _ h t reason tag => some (frameBytes 5 h.sender h.seq t (pairPayload .abandon reason tag))
  | .loadReceived _ t rs => some (frameBytes 9 0 seq t (loadPayload rs))
  | .halt _ t => some (frameBytes 0 0 seq t [])
  | .start _ t => some (frameBytes 6 0 seq t [byteOf 1])
  | .pause _ t => some (frameBytes 6 0 seq t [byteOf 2])
  | .clear _ t => some (frameBytes 6 0 seq t [byteOf 3])
  | .purge _ t => some (frameBytes 6 0 seq t [byteOf 4])
  | .park _ t => some (frameBytes 6 0 seq t [byteOf 5])
  | .query _ t => some (frameBytes 6 0 seq t [byteOf 6])
  | .reset _ t _ _ => some (frameBytes 6 0 seq t [byteOf 7])
  | .unknownCommand _ t code => some (frameBytes 6 0 seq t [code])
  | _ => none

/-- The state with the row that a run of line levels stands for put behind the rows that wait. -/
def State.hear (s : State) (e : Surroundings) (bits : List Bool) : State :=
  { s with pending := s.pending ++ [frameRow s.part.ctl.number e (hearBits bits)] }

end Sys2Proof.Machine
end

