-- ==== Sys2Proof/Safety.lean ====
section
/-! DEFINITION. What the rules say of the whole part at every instant, as predicates on its state. -/

namespace Sys2Proof.Machine

/-- R178: the stop reason is none in every mode except STOPPED, and one of the seven in STOPPED. -/
def Fc4.ReasonOk (s : Fc4) : Prop := s.ctl.reason = .noReason ↔ s.ctl.mode ≠ .stopped

/-- R68: at most 256 entries, no two with one touch id, no two with one pair tag, defer counts at most 3. -/
def Fc4.ListOk (s : Fc4) : Prop :=
  s.work.list.length ≤ listMax ∧ (s.work.list.map Entry.id).Nodup ∧
  (s.work.list.filterMap (fun e => e.terms.map PairTerms.tag)).Nodup ∧ ∀ e ∈ s.work.list, e.deferCount ≤ deferMax

/-- R167: the result queue holds at most 64 records. -/
def Fc4.QueueOk (s : Fc4) : Prop := s.results.queue.length ≤ queueMax

/-- R172: the refusal list holds at most 4 entries, the overflow count is at most 255. -/
def Fc4.RefusalsOk (s : Fc4) : Prop := s.results.refusals.length ≤ refusalMax ∧ s.results.overflow ≤ 255

/-- R16: between rows the own-check failure count is below 3, since 3 is set back to 0 at once. -/
def Fc4.FailsOk (s : Fc4) : Prop := s.link.fails < 3

/-- R21: one record per station number, for no station but 1 to 15, and never for the own number or 0; and while
a reset lasts, no record (R38). -/
def Fc4.PeersOk (s : Fc4) : Prop :=
  tableSorted s.view.peers = true ∧ (∀ p ∈ s.view.peers, 0 < p.1 ∧ p.1 < 16 ∧ p.1 ≠ s.ctl.number.val) ∧
  (s.ctl.resetHold.isSome = true → s.view.peers = [])

/-- R40, R62, R89: at most one received ask, one shadow and one touch note for each station. -/
def Fc4.KeysOk (s : Fc4) : Prop :=
  tableSorted s.resv.asks = true ∧ (s.resv.shadows.map Shadow.asker).Nodup ∧ tableSorted s.pair.notes = true

/-- R130: the filled cells stand in canonical order, each with a count of 1 to 7. -/
def Fc4.HeightsOk (s : Fc4) : Prop :=
  tableSorted s.heights = true ∧ ∀ c ∈ s.heights, 1 ≤ c.2.count ∧ c.2.count ≤ 7

/-- A measurement is under way: its stimulus is on, or will be again before its final discharge. -/
def Meas.active (m : Meas) : Bool :=
  decide (m.state ∈ [.zeroing, .settling, .ranging, .integrating, .timing]) || m.purposeIs .between

/-- R158: the stimulus is on only in a measurement under way, and that only while Z is LANDED. -/
def Fc4.StimulusOk (s : Fc4) : Prop :=
  (s.meas.stimulus.isSome = true → s.meas.active = true) ∧ (s.meas.active = true → s.motion.zState = .landed)

/-- Z is below its top stop in a touch: descending or landed. -/
def lowered (z : ZState) : Bool := decide (z ∈ [.fastDescent, .search, .landed])

/-- R116: the axes are commanded to move only while Z is raised, and Z is lowered only while the axes stand. -/
def Fc4.MotionOk (s : Fc4) : Prop :=
  (s.motion.axis = .moving → s.motion.zState = .raised) ∧ (lowered s.motion.zState = true → s.motion.axis = .standing)

/-! ### The held area and the held lines (R41, R42, R158) -/

/-- The position lies between `p` and `q` on both axes (R110). -/
def spanned (p q v : Pos) : Bool := between p.x q.x v.x && between p.y q.y v.y

/-- The box contains the standing box, and, while a move or its stop is in progress, the swept box of all that the
carriage may still pass, the current position among it (R41, R42, R110). -/
def Fc4.Covers (s : Fc4) (b : Box) : Prop :=
  inside s.standing b = true ∧
  (s.motion.axis = .moving → ∃ m, s.motion.move = some m ∧ inside (sweptBox s.geo m.p m.q) b = true ∧
    spanned m.p m.q s.here = true) ∧
  (s.motion.axis = .stopping → ∃ m f, s.motion.move = some m ∧ s.motion.stopFrom = some f ∧
    inside (sweptBox s.geo f m.q) b = true ∧ spanned f m.q s.here = true)

/-- The modes and stop reasons in which the held box is known to contain the carriage: a working mode, or a stop that an
axis fault would still give its reason to (R41, R114). -/
def Fc4.AreaTrusted (s : Fc4) : Prop :=
  working s.ctl.mode = true ∨
  (s.ctl.mode = .stopped ∧ s.ctl.reason ≠ .axisFault ∧ s.ctl.reason ≠ .linkCutoff ∧ s.ctl.reason ≠ .dupStation)

/-- R41, R42, R129, R158: where the area is trusted, no axis has a fault and the held box covers the carriage; in STARTING
the start-up position is the current one unless a fault has been seen, the join window opens only once it is known, and
no rendezvous is open; and a closed force or return switch stands on a line held by the station. -/
structure Fc4.HeldOk (s : Fc4) : Prop where
  covered  : s.AreaTrusted → s.receiving = true ∧ s.anyAxisFault = false ∧ ∃ b, s.resv.heldBox = some b ∧ s.Covers b
  starts   : s.ctl.mode = .starting → s.ctl.startPos ≠ none → s.receiving = true ∧
    (s.motion.faultSeen = true ∨
      (s.ctl.startPos = some s.here ∧ s.motion.axis = .standing ∧ s.anyAxisFault = false))
  joins    : s.ctl.mode = .starting → s.link.join ≠ .closed → s.ctl.startPos ≠ none
  unpaired : s.ctl.mode = .starting → s.pair.rdv = none ∧ s.meas.forceSw = none ∧ s.meas.retSw = none
  lines    : (∀ l, s.meas.forceSw = some l → holdsLine s.resv.heldLines l = true) ∧
    (∀ l, s.meas.retSw = some l → holdsLine s.resv.heldLines l = true)

/-- What the station has in hand is in order: an own RELEASE or CLAIM on the line states a box that covers the carriage
where the area is trusted, and a move is permitted only where it is, with its swept box inside the held box (R42, R49). -/
structure Fc4.InHand (s : Fc4) : Prop where
  release   : ∀ f r, s.link.onLine = some f → f.content = .release r → s.AreaTrusted → s.Covers r.box
  claim     : ∀ f c, s.link.onLine = some f → f.content = .claim c → s.AreaTrusted → s.Covers c.box
  permitted : ∀ m, s.motion.permitted = some m →
    s.AreaTrusted ∧ ∃ b, s.resv.heldBox = some b ∧ inside (sweptBox s.geo s.here m.q) b = true

/-- Everything above but what is in hand. -/
structure Fc4.Sound (s : Fc4) : Prop where
  reason   : s.ReasonOk
  list     : s.ListOk
  queue    : s.QueueOk
  refusals : s.RefusalsOk
  fails    : s.FailsOk
  peers    : s.PeersOk
  keys     : s.KeysOk
  heights  : s.HeightsOk
  stimulus : s.StimulusOk
  motion   : s.MotionOk
  held     : s.HeldOk

/-! ### The time a row takes, the length of a heard frame, and the changes of mode -/

/-- The time passed since the row before it (log 1). -/
def rowTime : Instr → Time
  | .powerOn dt _ | .powerOnSettled dt _ | .resetLineAsserted dt _ | .resetLineReleased dt _ | .imageReadTimeout dt
  | .imageJudged dt _ | .stopWaitEnd dt | .joinWindowEnd dt | .offer dt _ | .bitFault dt _ | .checkFailure dt
  | .ownCopyFail dt | .claimGranted dt | .releaseCompleted dt | .askSent dt | .touchSent dt | .pairSent dt
  | .beaconSent dt | .statusSent dt | .resultSent dt | .dupStationFrame dt | .transmitterCutOff dt
  | .linkDownEntry dt | .linkDownEnd ⟨dt, _⟩ | .beaconTimer dt | .beaconReceived dt _ _ | .claimReceived dt _ _
  | .releaseReceived dt _ _ | .askReceived dt _ _ _ | .touchReceived dt _ _ | .joinedReceived dt _ _ _
  | .doneReceived dt _ _ _ | .abandonReceived dt _ _ _ _ | .statusHeard dt _ | .resultHeard dt _
  | .unassignedFrame dt _ | .invalidSenderFrame dt _ | .malformedFrame dt _ | .peerSilence dt _
  | .lineRestExpiry dt _ | .claimRecheckTimer dt | .claimGiveUp dt | .yieldShadowExpiry dt _ | .loadReceived dt _ _
  | .moveCommand dt | .axisReport dt _ _ | .moveEnd dt | .carriageStopped dt | .descentBegin dt
  | .fastTargetReached dt | .touchdown dt | .noContact dt | .contactLost dt | .overloadLatch dt _ | .liftEnd dt
  | .rendezvousTimeout dt | .converterSample dt _ | .settleSampleA dt _ | .settleCheck dt _ | .timingCrossing dt
  | .timingTimeout dt | .betweenDischargeEnd dt | .finalDischargeEnd dt | .abortDischargeEnd dt
  | .resetDischargeEnd dt | .resultAgeTrigger dt | .halt dt _ | .start dt _ | .pause dt _ | .clear dt _ | .purge dt _
  | .park dt _ | .query dt _ | .reset dt _ _ _ | .unknownCommand dt _ _ | .contactInputSample dt _ => dt

/-- The payload bytes of the frame that the row of a heard frame stands for (R195); the least there may be, where the row
leaves them open. -/
def heardLength : Instr → Nat
  | .beaconReceived .. => 30
  | .claimReceived .. => 14
  | .releaseReceived .. => 13
  | .askReceived .. => 11
  | .touchReceived .. | .statusHeard .. => 10
  | .joinedReceived .. | .doneReceived .. | .abandonReceived .. => 4
  | .resultHeard .. => 15
  | .loadReceived _ _ records => 1 + 22 * records.length
  | .start .. | .pause .. | .clear .. | .purge .. | .park .. | .query .. | .reset .. | .unknownCommand .. => 1
  | _ => 0

/-- The changes from mode `m` to mode `m'` that the rules give to a row: resets (R181), the ends of preparation and of
the join window (R183 to R185), START, PAUSE and CLEAR (R187, R188, R194); and for every row, PAUSED once the touch
that a pause waited for has ended (R188), and STOPPED from a working mode (R189). -/
def modeStep : Instr → Mode → Mode → Prop
  | .powerOn .., _, m' => m' = .starting
  | .resetLineAsserted .., _, m' => m' = .starting
  | .reset .., m, m' => m' = m ∨ m' = .starting
  | .imageReadTimeout .., m, m' => m' = m ∨ (m = .starting ∧ m' = .cfgFault)
  | .imageJudged .., m, m' => m' = m ∨ (m = .starting ∧ m' = .cfgFault)
  | .stopWaitEnd .., m, m' => m' = m ∨ (m = .starting ∧ m' = .cfgFault)
  | .joinWindowEnd .., m, m' => m' = m ∨ (m = .starting ∧ (m' = .idle ∨ m' = .stopped))
  | .start .., m, m' => m' = m ∨ ((m = .idle ∨ m = .paused) ∧ m' = .running)
  | .pause .., m, m' => m' = m ∨ (m = .running ∧ (m' = .pausing ∨ m' = .paused))
  | .clear .., m, m' => m' = m ∨ (m = .stopped ∧ m' = .idle)
  | _, m, m' => m' = m ∨ (m = .pausing ∧ m' = .paused) ∨ (working m = true ∧ m' = .stopped)

end Sys2Proof.Machine
end

