-- ==== Sys2Proof/WellFormed.lean ====
section
/-! DEFINITION. Which operands a row can carry: what bytes of a frame, pins and drives can say. -/

namespace Sys2Proof

open Sys2Proof.Machine

/-- A position lies in the machine frame (00). -/
def Pos.wf (p : Pos) : Bool := decide (p.x ≤ coordMax) && decide (p.y ≤ coordMax)

/-- A box lies in the machine frame, its bounds in order (00, R195). -/
def Box.wf (b : Box) : Bool := boxOrdered b && decide (b.xmax ≤ coordMax) && decide (b.ymax ≤ coordMax)

/-- A number fits in `n` bytes. -/
def fits (n v : Nat) : Bool := decide (v < 256 ^ n)

/-- The drive reports a position in the machine frame (R110). -/
def AxisReport.wf (r : AxisReport) : Bool := decide (r.pos ≤ coordMax)

/-- The carriage is in the machine frame, and the coil within its travel (R109). -/
def CarriageReading.wf (r : CarriageReading) : Bool := r.x.wf && r.y.wf && decide (r.z ≤ zMax)

/-- A well-formed BEACON payload (R195). -/
def BeaconBody.wf (b : BeaconBody) : Bool :=
  !decide (b.mode = .starting) && (b.reach.map Box.wf).getD true && (b.held.map Box.wf).getD true &&
  rolesDistinct b.lines && fits 2 b.frontTag && fits 2 b.listCount && fits 1 b.queueCount && fits 1 b.askTarget

/-- A well-formed CLAIM payload (R195). -/
def ClaimBody.wf (b : ClaimBody) : Bool := b.box.wf && rolesDistinct b.lines && fits 2 b.tag

/-- A well-formed RELEASE payload (R195). -/
def ReleaseBody.wf (b : ReleaseBody) : Bool := b.box.wf && rolesDistinct b.lines && fits 1 b.answerTo

/-- A well-formed TOUCH payload (R195). -/
def TouchBody.wf (b : TouchBody) : Bool := b.pad.wf && fits 2 b.height && fits 2 b.tag

/-- The fields of a LOAD record fit their bits (chapter 11). -/
def LoadRecord.wf (r : LoadRecord) : Bool :=
  fits 2 r.touchId && decide (r.kindCode < 8) && decide (r.roleCode < 4) && fits 1 r.partner && fits 2 r.tag &&
  r.pad.wf && fits 4 r.low && fits 4 r.high && fits 1 r.hint && fits 2 r.approach

/-- A LOAD carries one or two records (R69, R195). -/
def loadWf (rs : List LoadRecord) : Bool := (decide (rs.length = 1) || decide (rs.length = 2)) && rs.all LoadRecord.wf

/-- The code is none of the seven commands' (R186, R187). -/
def unknownCode (code : Byte) : Bool := decide (code.toNat = 0) || decide (7 < code.toNat)

/-- The operands of the row are ones that the outside can give. -/
def Instr.wf : Instr → Bool
  | .powerOn _ r => r.wf
  | .resetLineAsserted _ r => r.wf
  | .imageJudged _ image => decide (image.length = 32)
  | .beaconReceived _ h b => !decide (h.sender = 0) && b.wf
  | .claimReceived _ h b => !decide (h.sender = 0) && b.wf
  | .releaseReceived _ h b => !decide (h.sender = 0) && b.wf
  | .askReceived _ h _ b => !decide (h.sender = 0) && b.box.wf
  | .touchReceived _ h b => !decide (h.sender = 0) && b.wf
  | .joinedReceived _ h _ tag => !decide (h.sender = 0) && fits 2 tag
  | .doneReceived _ h _ tag => !decide (h.sender = 0) && fits 2 tag
  | .abandonReceived _ h _ reason tag => !decide (h.sender = 0) && fits 1 reason && fits 2 tag
  | .statusHeard _ h => !decide (h.sender = 0)
  | .resultHeard _ h => !decide (h.sender = 0)
  | .peerSilence _ peer => !decide (peer = 0)
  | .yieldShadowExpiry _ asker => !decide (asker = 0)
  | .loadReceived _ _ rs => loadWf rs
  | .axisReport _ _ r => r.wf
  | .reset _ _ _ r => r.wf
  | .unknownCommand _ _ code => unknownCode code
  | .powerOnSettled .. | .resetLineReleased .. | .imageReadTimeout .. | .stopWaitEnd .. | .joinWindowEnd ..
  | .offer .. | .bitFault .. | .checkFailure .. | .ownCopyFail .. | .claimGranted .. | .releaseCompleted ..
  | .askSent .. | .touchSent .. | .pairSent .. | .beaconSent .. | .statusSent .. | .resultSent ..
  | .dupStationFrame .. | .transmitterCutOff .. | .linkDownEntry .. | .linkDownEnd .. | .beaconTimer ..
  | .unassignedFrame .. | .invalidSenderFrame .. | .malformedFrame .. | .lineRestExpiry ..
  | .claimRecheckTimer .. | .claimGiveUp .. | .moveCommand .. | .moveEnd .. | .carriageStopped ..
  | .descentBegin .. | .fastTargetReached .. | .touchdown .. | .noContact .. | .contactLost ..
  | .overloadLatch .. | .liftEnd .. | .rendezvousTimeout .. | .converterSample .. | .settleSampleA ..
  | .settleCheck .. | .timingCrossing .. | .timingTimeout .. | .betweenDischargeEnd ..
  | .finalDischargeEnd .. | .abortDischargeEnd .. | .resetDischargeEnd .. | .resultAgeTrigger ..
  | .halt .. | .start .. | .pause .. | .clear .. | .purge .. | .park .. | .query .. | .contactInputSample .. => true

end Sys2Proof
end

