-- ==== Sys2Proof/Certificates/Slice0/Obligations.lean ====
section
/-! DEFINITION. The statements for the provers. In each, `p` is the part `dt` after the row before, as the row
finds it; `Fc4.recheck`, `Fc4.closeCheck`, `Fc4.pairRecheck`, `Fc4.testStart` and the other tails that a row's
statement names are the tests that follow it, whose own statements stand here too. -/

open Sys2Proof Sys2Proof.Machine

/-! ### The step, the modes, the invariants -/

/-- A step takes the row at the front of the queue and runs it on the queue's rest, whole (95: one row at a time). That
the part idles on an empty queue is the model's choice (log 6). -/
def Obligations.StepTakesTheFrontRow : Prop :=
  ∀ (c : Instr) (s : State),
    step { s with pending := c :: s.pending } = exec c s ∧ step { s with pending := [] } = .next { s with pending := [] }

/-- Every row is taken, in every state and with every operand: the part goes on, the clock has moved by the row's time
(log 1), and the queue is as the row found it. That a row whose own condition does not hold is taken all the same, and
then only time passes, is the model's choice (log 2). (What each row does there, the statements below say.) -/
def Obligations.NoRowStopsThePart : Prop :=
  ∀ (i : Instr) (s : State), ∃ t, exec i s = .next t ∧ t.pending = s.pending ∧ t.part.now = s.part.now + rowTime i

/-- Which changes of mode a row may make: STARTING is entered by resets alone, CFG_FAULT is left by resets alone,
RUNNING is entered by START alone, STOPPED is left by CLEAR or a reset alone. Every row but a few may also take a
working mode to STOPPED and PAUSING to PAUSED: which rows do, and when, this statement does not say. -/
def Obligations.ModeChangesFollowTheRules : Prop :=
  ∀ (i : Instr) (s t : State), exec i s = .next t → modeStep i s.part.ctl.mode t.part.ctl.mode

/-- R178: the stop reason is one of the seven in STOPPED and none in every other mode, after every step. -/
def Obligations.StopReasonStandsOnlyInStopped : Prop :=
  ∀ s t : State, s.part.ReasonOk → step s = .next t → t.part.ReasonOk

/-- R16, R68, R76, R167, R172: the touch list (its ids and tags distinct, its defer counts), the result queue, the
refusal list, the overflow count and the own-check failure count stay in their bounds, each by itself, after every
step. -/
def Obligations.ListsQueuesAndCountsStayInBounds : Prop :=
  ∀ s t : State, step s = .next t →
    (s.part.ListOk → t.part.ListOk) ∧ (s.part.QueueOk → t.part.QueueOk) ∧ (s.part.RefusalsOk → t.part.RefusalsOk) ∧
    (s.part.FailsOk → t.part.FailsOk)

/-- R21, R38, R40, R62, R89, R130: the Peer View holds one record per station number from 1 to 15 but the own, and none
while a reset lasts; one received ask, one yield shadow and one touch note at most stand for each station; the Height
Table keeps its canonical form and its counts from 1 to 7. Each by itself, after every step. -/
def Obligations.TablesKeepTheirForm : Prop :=
  ∀ s t : State, step s = .next t →
    (s.part.PeersOk → t.part.PeersOk) ∧ (s.part.KeysOk → t.part.KeysOk) ∧ (s.part.HeightsOk → t.part.HeightsOk)

/-- R116, R158: the stimulus is on only in a measurement under way, and a measurement is under way only while Z is
LANDED; the axes move only while Z is raised, and Z is lowered only while the axes stand. R41, R42, R158: the held box
contains the standing box and, in a move or its stop, the swept box of what is left of it, wherever the area is trusted;
and a closed force or return switch stands on a held line. Each by itself, after every step. The last needs what the
station has in hand to be in order: an own RELEASE or CLAIM on the line that covers the carriage, and a permitted move
inside the held box (`Fc4.InHand`); R48's stray grant can leave a RELEASE on the line that is not. -/
def Obligations.StimulusAndMotionStaySafe : Prop :=
  ∀ s t : State, step s = .next t →
    (s.part.StimulusOk → t.part.StimulusOk) ∧ (s.part.MotionOk → t.part.MotionOk) ∧
    (s.part.InHand → s.part.HeldOk → t.part.HeldOk)

/-- The state after a power-on reset has every property above, with nothing out of order in hand, and no row waits. -/
def Obligations.ResetStateIsSound : Prop :=
  State.reset.part.Sound ∧ State.reset.part.InHand ∧ State.reset.pending = []

/-! ### Frames on the line (chapter 01, chapter 11) -/

/-- R2 to R5, R17, R195. A frame that a station sends, bit by bit with its check, is heard by another station as the row
that stands for it: every field of every payload that a row carries comes through, at every value its bytes join. (That
a row carries its payload's fields is the model's form: log 27; no row carries the payload of a peer's STATUS or
RESULT.) A frame whose length byte is above 60, whose levels end early, in which a start bit is recessive or whose check
is wrong fails, and is a CHECK_FAILURE. One with the own number is a duplicate's; one of kind 11 to 15, one whose sender
is not valid for its kind, and one of the wrong length for its kind is the row of that name. A head's frame is malformed
exactly where its length is wrong or a coded field has no meaning: a box whose bounds are not in order, a lines nibble
above 4 or one line named twice, a role code 3, an operation code other than 1 to 3, a mode code other than 1 to 6, a
stop reason code above 7; a LOAD where its length is not that of its 1 or 2 records. A peer's STATUS and RESULT are
heard at the lengths that their counts give. -/
def Obligations.FramesAreHeardAsSent : Prop :=
  (∀ (own : Station) (e : Surroundings) (seq : Seq) (row : Instr) (bytes : List Byte),
    own ≠ 0 → row.wf = true → rowFrame seq row = some bytes → rowTime row = e.dt →
    (match row with
      | .beaconReceived _ h _ | .claimReceived _ h _ | .releaseReceived _ h _ | .askReceived _ h _ _ | .touchReceived _ h _
      | .joinedReceived _ h _ _ | .doneReceived _ h _ _ | .abandonReceived _ h _ _ _ => h.sender ≠ own
      | .reset _ _ straps reading => straps = e.straps ∧ reading = e.reading
      | _ => True) →
    frameRow own e (hearBits (sendBits bytes)) = row) ∧
  (∀ (b0 b1 len : Byte) (rest : List Bool), 60 < len.toNat → hearBits (sendBits [b0, b1, len] ++ rest) = .failed) ∧
  (∀ (b0 b1 c0 c1 : Byte) (payload : List Byte), payload.length ≤ 60 →
    let frame := b0 :: b1 :: byteOf payload.length :: payload
    let sent := frame ++ [c0, c1]
    ([c0, c1] = crcBytes frame → hearBits (sendBits sent) = .passed frame) ∧
    ([c0, c1] ≠ crcBytes frame → hearBits (sendBits sent) = .failed) ∧
    (∀ n, n < (sendBits sent).length → hearBits ((sendBits sent).take n) = .failed) ∧
    (∀ k rest, k < sent.length → hearBits (sendBits (sent.take k) ++ true :: rest) = .failed)) ∧
  ∀ (own sender : Station) (e : Surroundings) (seq : Seq) (code target : Nat) (payload : List Byte),
    code < 16 → target < 16 → payload.length ≤ 60 →
    let row := frameRow own e (.passed (byteOf (code * 16 + sender.val) :: byteOf (seq.val * 16 + target) ::
      byteOf payload.length :: payload))
    frameRow own e .failed = .checkFailure e.dt ∧
    (sender = own → row = .dupStationFrame e.dt) ∧
    (sender ≠ own → 11 ≤ code → row = .unassignedFrame e.dt ⟨sender, seq⟩) ∧
    (sender ≠ own → sender ≠ 0 → code ∈ [0, 6, 9] → row = .invalidSenderFrame e.dt ⟨sender, seq⟩) ∧
    (sender ≠ own → sender = 0 → code ∈ [1, 2, 3, 4, 5, 7, 8, 10] → row = .invalidSenderFrame e.dt ⟨sender, seq⟩) ∧
    (sender ≠ own → sender = 0 → code ∈ [0, 6, 9] → (row = .malformedFrame e.dt ⟨sender, seq⟩ ↔
      (code = 0 ∧ payload.length ≠ 0) ∨ (code = 6 ∧ payload.length ≠ 1) ∨
      (code = 9 ∧ ¬ (fieldAt payload 0 1 ∈ [1, 2] ∧ payload.length = 1 + 22 * fieldAt payload 0 1)))) ∧
    (let at' := fun off => fieldAt payload off 1
      let crossed := fun off =>
        fieldAt payload (off + 5) 5 % 1048576 < fieldAt payload off 5 % 1048576 ∨
        fieldAt payload (off + 5) 5 / 1048576 < fieldAt payload off 5 / 1048576
      let noLines := fun off => 4 < at' off % 16 ∨ 4 < at' off / 16 ∨ (at' off % 16 = at' off / 16 ∧ at' off ≠ 0)
      sender ≠ own → sender ≠ 0 → ∀ len, (code, len) ∈ [(1, 13), (2, 11), (3, 14), (4, 10), (5, 4), (7, 30)] →
        (row = .malformedFrame e.dt ⟨sender, seq⟩ ↔ payload.length ≠ len ∨
          (code ∈ [1, 2, 3] ∧ crossed 1) ∨ (code ∈ [1, 3] ∧ noLines 11) ∨ (code = 4 ∧ at' 0 / 2 % 4 = 3) ∨
          (code = 5 ∧ at' 0 ∉ [1, 2, 3]) ∨
          (code = 7 ∧ (at' 1 ∉ [1, 2, 3, 4, 5, 6] ∨ 7 < at' 2 ∨ (at' 0 / 32 % 2 = 1 ∧ crossed 3) ∨
            (at' 0 / 64 % 2 = 1 ∧ crossed 13) ∨ noLines 23)))) ∧
    (sender ≠ own → sender ≠ 0 →
      (code = 8 → row =
        if fieldAt payload 9 1 ≤ 4 ∧ payload.length = 10 + 3 * fieldAt payload 9 1 then .statusHeard e.dt ⟨sender, seq⟩
        else .malformedFrame e.dt ⟨sender, seq⟩) ∧
      (code = 10 → row =
        if 1 ≤ fieldAt payload 0 1 ∧ fieldAt payload 0 1 ≤ 4 ∧ payload.length = 1 + 14 * fieldAt payload 0 1
        then .resultHeard e.dt ⟨sender, seq⟩ else .malformedFrame e.dt ⟨sender, seq⟩))

/-- R6: of stations that begin at one instant, the one whose contention value is lowest wins the line, by comparing
bit by bit; a station wins exactly when no rival has a lower value. -/
def Obligations.LowestContentionValueWins : Prop :=
  ∀ (own : Byte) (rivals : List Byte), winsLine own rivals = true ↔ ∀ r ∈ rivals, own.toNat ≤ r.toNat

/-- R1, R2, R6 to R8, R10, R14, R35 to R37, R49, R169, R175: what an idle instant does. Nothing is offered at a station
strapped 0 or in a reset, in STARTING or LINK_DOWN, cut off, with a frame of its own on the line, or while the line is
not known idle (log 39). Else a CLAIM that would be offered is examined first: it stays with the box now held, or leaves
its slot blocked (the ASK that it may fill then is offered at the same instant: log 37). Then the filled slot of the
lowest kind code is offered, in CFG_FAULT only BEACON or STATUS. Where no rival (the row's operand, log 33) has a lower
contention value the frame is on the line, with its kind, the station's number and sequence number, its payload as slots
and state stand, and its check; where one has, nothing begins and the line is in use (log 39); with no filled slot
nothing begins. -/
def Obligations.OfferBeginsTheLowestFrame : Prop :=
  (∀ (s : State) (dt : Time) (rivals : List Byte),
    let p := s.part.elapse dt
    let silent := p.receiving = false ∨ p.now < p.link.idleFrom ∨ p.link.onLine.isSome = true ∨ p.ctl.mode = .starting ∨
      p.link.linkDown.isSome = true ∨ p.link.cutOff = true
    let q := p.examineOffer
    (silent → exec (.offer dt rivals) s = .next { s with part := p }) ∧
    (¬ silent → q.offeredSlot = none → exec (.offer dt rivals) s = .next { s with part := q }) ∧
    (¬ silent → ∀ k, q.offeredSlot = some k →
      ((∃ r ∈ rivals, r.toNat < kindCode k * 16 + q.ctl.number.val) → exec (.offer dt rivals) s =
        .next { s with part := { q with link := { q.link with idleFrom := q.now + us 3 } } }) ∧
      ((∀ r ∈ rivals, kindCode k * 16 + q.ctl.number.val ≤ r.toNat) →
        ∃ c target payload, q.frameOf k = some (c, target, payload) ∧ c.kind = k ∧
          exec (.offer dt rivals) s = .next { s with part := { q with link := { q.link with
            onLine := some { content := c, seq := q.link.seq, since := q.now, withdrawn := false, refilled := false
                             bytes := frameBytes (kindCode k) q.ctl.number q.link.seq target payload } } } }))) ∧
  (∀ p : Fc4,
    let q := p.examineOffer
    (p.offeredSlot ≠ some .claim → q = p) ∧
    (p.offeredSlot = some .claim → p.resv.claim = none → q = { p with link := p.link.withdrawClaim }) ∧
    ∀ c f, p.offeredSlot = some .claim → p.resv.claim = some c → p.link.claim = some f →
      let box := if c.kind = .line then p.heldOrStanding else f.box
      (p.claimPasses box f.lines = true → q = { p with
        link := { p.link with claim := some ⟨box, f.lines, f.tag⟩ }, resv := { p.resv with claim := some { c with box } } }) ∧
      (p.claimPasses box f.lines = false → q.link.claim = none ∧ q.resv.claim = some c ∧
        q.resv.blockedSince = some (p.resv.blockedSince.getD p.now))) ∧
  ∀ q : Fc4,
    let l := q.link
    let filled : FrameKind → Prop
      | .release => l.release.isSome = true
      | .ask => l.ask.isSome = true
      | .claim => l.claim.isSome = true
      | .touch => l.touch.isSome = true
      | .pair => l.pair.isSome = true
      | .beacon => l.beacon = true
      | .status => l.status = true
      | .result => l.result = true
      | _ => False
    let mayGo : FrameKind → Prop := fun k => filled k ∧ (q.ctl.mode = .cfgFault → k = .beacon ∨ k = .status)
    (∀ k, q.offeredSlot = some k ↔ mayGo k ∧ ∀ j, mayGo j → kindCode k ≤ kindCode j) ∧
    (∀ f, l.release = some f → q.frameOf .release =
      some (.release f, 0, releasePayload ⟨q.ctl.side, f.atHaven, f.box, f.lines, f.answer⟩)) ∧
    (∀ f, l.ask = some f → q.frameOf .ask = some (.ask f, f.target, askPayload ⟨q.ctl.side, f.box⟩)) ∧
    (∀ f, l.claim = some f → q.frameOf .claim = some (.claim f, 0, claimPayload ⟨q.ctl.side, f.box, f.lines, f.tag⟩)) ∧
    (∀ f, l.touch = some f → q.frameOf .touch =
      some (.touch f, 0, touchPayload ⟨q.ctl.side, f.role, f.pad, f.height, f.tag⟩)) ∧
    (∀ f, l.pair = some f → q.frameOf .pair =
      some (.pair f, f.target, pairPayload f.op ((f.reason.map outcomeCode).getD 0) f.tag)) ∧
    q.frameOf .status = some (.status, 0, statusPayload q.results.last q.ctl.mode q.ctl.reason q.ctl.source
      q.work.list.length q.results.queue.length q.results.overflow q.results.refusals) ∧
    q.frameOf .result = some (.result (min 4 q.results.queue.length), 0,
      resultPayload ((q.results.queue.take 4).map Queued.record)) ∧
    q.frameOf .beacon = some (.beacon, 0, beaconPayload q.beaconBody) ∧
    (q.ctl.mode = .cfgFault → q.beaconBody = ⟨q.ctl.side, .cfgFault, .noReason, none, none, ⟨none, none⟩, 0, false, false,
      false, false, 0, 0, 0⟩) ∧
    (q.ctl.mode ≠ .cfgFault →
      let paired := (q.ctl.mode = .running ∨ q.ctl.mode = .pausing) ∧ q.front.bind Entry.terms ≠ none
      let b := q.beaconBody
      b = { side := q.ctl.side, mode := q.ctl.mode, stop := q.ctl.reason, reach := some q.geo.reach, held := q.resv.heldBox
            lines := q.resv.heldLines, frontTag := b.frontTag, landed := decide (q.motion.zState = .landed)
            atHaven := b.atHaven, blocked := q.resv.blockedSince.isSome, waiting := q.work.waiting
            listCount := q.work.list.length, queueCount := q.results.queue.length
            askTarget := ((q.resv.ask.map (fun a : Ask => a.target.val)).getD 0) } ∧
      (b.atHaven = true ↔ q.motion.axis = .standing ∧ q.here = q.geo.haven) ∧
      (paired → ∀ e t, q.front = some e → e.terms = some t → b.frontTag = t.tag) ∧ (¬ paired → b.frontTag = 0))

/-- R11, R14, R15, R53, R173: the own BEACON, STATUS, TOUCH or ASK completes with a passing own copy: its slot is
emptied unless filled again, the counter advances, the failure count is cleared; a STATUS empties the refusal list and
the overflow count; an ASK not withdrawn records its time. That a blocked claim is then examined (R46 speaks of frames
heard) is the model's choice: log 34; so is that the line is idle 3 µs later: log 39. -/
def Obligations.PlainOwnFramesComplete : Prop :=
  ∀ (s : State) (dt : Time) (f : OwnFrame), s.part.receiving = true → s.part.link.onLine = some f →
    let p := s.part.elapse dt
    let l := { p.link with onLine := none, seq := p.link.seq + 1, fails := 0, idleFrom := p.now + us 3 }
    (f.content = .beacon → exec (.beaconSent dt) s =
      .next { s with part := ({ p with link := if f.refilled then l else { l with beacon := false } }).recheck }) ∧
    (f.content = .status → exec (.statusSent dt) s =
      .next { s with part := ({ p with link := if f.refilled then l else { l with status := false }
                                       results := { p.results with refusals := [], overflow := 0 } }).recheck }) ∧
    (∀ x, f.content = .touch x → exec (.touchSent dt) s =
      .next { s with part := ({ p with link := if f.refilled then l else { l with touch := none } }).recheck }) ∧
    (∀ x, f.content = .ask x → exec (.askSent dt) s =
      .next { s with part := ({ p with
        link := if f.refilled then l else { l with ask := none }
        resv := if f.withdrawn then p.resv
          else { p.resv with ask := p.resv.ask.map (fun a : Ask => { a with sent := some p.now }) } }).recheck })

/-- R33, R50, R160: the own RELEASE completes: the held box and lines become those it carries, each line it drops rests
for 200 µs, force and return switches of lines no longer held open, and connections all open are broken. A MOVE claim
and its slot keep of their lines those still held (log 47), and a finished SOURCE that holds lines yet drops them. That
a blocked claim is then examined (R46) is the model's choice: log 34; the line is idle 3 µs later: log 39. -/
def Obligations.OwnReleaseCompletes : Prop :=
  ∀ (s : State) (dt : Time) (f : OwnFrame) (r : ReleaseFill),
    s.part.receiving = true → s.part.link.onLine = some f → f.content = .release r →
    let p := s.part.elapse dt
    let l := { p.link with onLine := none, seq := p.link.seq + 1, fails := 0, idleFrom := p.now + us 3 }
    let dropped := fun x => holdsLine p.resv.heldLines x && !holdsLine r.lines x
    let rest := fun x old => if dropped x then some (p.now + us 200) else old
    let force := p.meas.forceSw.filter (holdsLine r.lines)
    let ret := p.meas.retSw.filter (holdsLine r.lines)
    let keep := fun x : LineRoles =>
      (⟨x.force.filter (holdsLine r.lines), x.ret.filter (holdsLine r.lines)⟩ : LineRoles)
    let moving := p.resv.claim.map Claim.kind = some .move
    let slots := if f.refilled then l else { l with release := none }
    exec (.releaseCompleted dt) s = .next { s with part := ({ p with
      link := if moving then
          { slots with claim := slots.claim.map (fun x : ClaimFill => { x with lines := keep x.lines }) }
        else slots
      resv := { p.resv with
        heldBox := some r.box, heldLines := r.lines
        claim := if moving then p.resv.claim.map (fun x : Claim => { x with lines := keep x.lines }) else p.resv.claim }
      view := { p.view with rests := ⟨rest .ml1 p.view.rests.ml1, rest .ml2 p.view.rests.ml2,
        rest .ml3 p.view.rests.ml3, rest .ml4 p.view.rests.ml4⟩ }
      meas := { p.meas with forceSw := force, retSw := ret }
      pair := if force.isNone && ret.isNone && p.meas.senseSw.isNone then
          { p.pair with rdv := p.pair.rdv.map (fun x : Rendezvous => { x with connected := false }) }
        else p.pair }).dropLinesIfDone.closeCheck.recheck }

/-- R47, R48, R50, R94, R158, R160: the own CLAIM completes: the held box and lines become those it carries, and a force
or return switch on a line no longer held opens. Where the claim is still pending it is granted and ends with its
blocked time and its ask: a MOVE claim permits the move, a LINE claim gives the Pair Unit its lines. A withdrawn one is
a stray grant: a RELEASE back to the lines held before falls due, unless a newer claim is pending, whoever made it and
why (the model's choice: log 52), or the stop's reason is or has been AXIS_FAULT (log 23). A RELEASE that waited for the
frame is filled (last: log 24), and lines that a finished SOURCE still holds are dropped (log 47). Lines given to a
landed SOURCE in LINKING are connected, and a partner that has joined already starts the measurement. (The phase of the
re-check timer, which ends here: log 13; that a blocked claim is examined after an own frame, R46: log 34, the model's
choice; idle 3 µs later: log 39.) -/
def Obligations.OwnClaimCompletes : Prop :=
  (∀ (s : State) (dt : Time) (f : OwnFrame) (c : ClaimFill),
    s.part.receiving = true → s.part.link.onLine = some f → f.content = .claim c →
    let p := s.part.elapse dt
    let l := { p.link with onLine := none, seq := p.link.seq + 1, fails := 0, idleFrom := p.now + us 3 }
    let force := p.meas.forceSw.filter (holdsLine c.lines)
    let ret := p.meas.retSw.filter (holdsLine c.lines)
    let g : Fc4 := { p with
      link := if f.refilled then l else { l with claim := none }
      resv := { p.resv with heldBox := some c.box, heldLines := c.lines }
      meas := { p.meas with forceSw := force, retSw := ret }
      pair := if force.isNone && ret.isNone && p.meas.senseSw.isNone then
          { p.pair with rdv := p.pair.rdv.map (fun x : Rendezvous => { x with connected := false }) }
        else p.pair }
    let ended : Fc4 := ({ g with resv := { g.resv with claim := none, blockedSince := none, recheckDue := none } }).endAsk
    let stands := (p.ctl.mode = .stopped ∧ p.ctl.axisFaulted = true) ∨ p.resv.claim.isSome = true
    let becomes := fun u : Fc4 =>
      exec (.claimGranted dt) s = .next { s with part := u.flushRelease.dropLinesIfDone.closeCheck.recheck }
    (∀ k, f.withdrawn = false → p.resv.claim = some k → k.kind = .move → becomes (ended.permitMove k.who k.target)) ∧
    (∀ k, f.withdrawn = false → p.resv.claim = some k → k.kind = .line → becomes (ended.sourceLines c.lines)) ∧
    (f.withdrawn = true ∨ p.resv.claim = none → stands → becomes g) ∧
    (f.withdrawn = true ∨ p.resv.claim = none → ¬ stands → becomes (g.releaseDue (.strayGrant p.resv.heldLines)))) ∧
  ∀ (q : Fc4) (lines : LineRoles),
    (q.pair.rdv = none → q.sourceLines lines = q) ∧
    ∀ r, q.pair.rdv = some r →
      let noted := { r with forceLine := lines.force, retLine := lines.ret }
      let makes := r.state = .linking ∧ r.role = .source ∧ q.motion.zState = .landed ∧ q.resv.heldLines = lines
      let made : Fc4 := { q with
        meas := { q.meas with forceSw := lines.force, retSw := lines.ret }
        pair := { q.pair with rdv := some { noted with connected := true, state := .joinedWait } } }
      (¬ makes → q.sourceLines lines = { q with pair := { q.pair with rdv := some noted } }) ∧
      (makes → r.joinedHeard = false → q.sourceLines lines = made) ∧
      (makes → r.joinedHeard = true → q.sourceLines lines = made.startMeasuring)

/-- R52, R97, R100, R101: the own PAIR frame completes: where it is the ending frame of the open rendezvous, that ending
is done. A SOURCE in FINISHING whose connections are broken and whose ending, if it has one, is done makes the RELEASE
of the held box with no lines due, where it holds lines or will hold them; in every other state nothing is dropped. Then
the rendezvous closes where it can. (The model's choices: the lines it will hold are those that a waiting RELEASE or a
CLAIM on the line leaves, logs 24 and 47; a blocked claim is examined after an own frame too, R46, log 34; the line is
idle 3 µs later, log 39.) -/
def Obligations.OwnPairFrameCompletes : Prop :=
  (∀ (s : State) (dt : Time) (f : OwnFrame) (x : PairFill),
    s.part.receiving = true → s.part.link.onLine = some f → f.content = .pair x →
    let p := s.part.elapse dt
    let l := { p.link with onLine := none, seq := p.link.seq + 1, fails := 0, idleFrom := p.now + us 3 }
    let ended := fun r : Rendezvous =>
      if r.tag = x.tag ∧ r.partner = x.target ∧ r.ending = some x.op then { r with endingDone := true } else r
    exec (.pairSent dt) s = .next { s with part := ({ p with
      link := if f.refilled then l else { l with pair := none }
      pair := { p.pair with rdv := p.pair.rdv.map ended } }).dropLinesIfDone.closeCheck.recheck }) ∧
  ∀ q : Fc4,
    let drops := ∃ r, q.pair.rdv = some r ∧ r.state = .finishing ∧ r.role = .source ∧ r.connected = false ∧
      (r.ending = none ∨ r.endingDone = true) ∧ q.comingLines ≠ ⟨none, none⟩
    (drops → q.dropLinesIfDone = q.releaseDue .linesDropped) ∧ (¬ drops → q.dropLinesIfDone = q)

/-- R75, R167 to R169: the own RESULT completes: the records it carried leave the head of the queue, held results follow
into the room, and the start conditions and the packing trigger are tested. And 20 ms after the oldest record joined,
the RESULT slot is filled where it is empty. The trigger is 4 records, or an oldest one that joined 20 ms ago or
earlier, and fills an empty slot. Held results are handed over in the order of the list, as many as there is room for:
their entries leave the list, they join the queue's tail with this instant as their join time, and the trigger is
tested. (The model's choices: a blocked claim is examined after an own frame too, R46, log 34; the line is idle 3 µs
later, log 39.) -/
def Obligations.ResultsLeaveTheQueue : Prop :=
  ∀ (s : State) (dt : Time),
    let p := s.part.elapse dt
    let l := { p.link with onLine := none, seq := p.link.seq + 1, fails := 0, idleFrom := p.now + us 3 }
    (∀ f n, s.part.receiving = true → s.part.link.onLine = some f → f.content = .result n →
      exec (.resultSent dt) s = .next { s with part := ({ p with
        link := if f.refilled then l else { l with result := false }
        results := { p.results with queue := p.results.queue.drop n } }).handOver.testStart.testPacking.recheck }) ∧
    (∀ q rest, s.part.results.queue = q :: rest → q.joined + ms 20 ≤ p.now →
      exec (.resultAgeTrigger dt) s = .next { s with part := { p with link := { p.link with result := true } } }) ∧
    ∀ q : Fc4,
      let trigger := 4 ≤ q.results.queue.length ∨ ∃ o rest, q.results.queue = o :: rest ∧ o.joined + ms 20 ≤ q.now
      (q.link.result = false → trigger → q.testPacking = { q with link := { q.link with result := true } }) ∧
      (q.link.result = true ∨ ¬ trigger → q.testPacking = q) ∧
      ((q.work.list.map Entry.id).Nodup →
        let holding := q.work.list.filter (fun e => decide (e.st = .finished ∧ e.held.isSome = true))
        let leaving := holding.take (64 - q.results.queue.length)
        let given : Fc4 := { q with
          work := { q.work with list := q.work.list.filter (fun e => !decide (e.id ∈ leaving.map Entry.id)) }
          results := { q.results with
            queue := q.results.queue ++ leaving.filterMap (fun e => e.held.map (fun r => ⟨r, q.now⟩)) } }
        (leaving = [] → q.handOver = q) ∧ (leaving ≠ [] → q.handOver = given.testPacking))

/-- R15, R16, R27: a failing own copy advances the counter and leaves the slots; a bit fault whose frame fails leaves
the counter too, and no peer is trusted. Either counts one failure; the third in a row sets the count back to 0 and
stops a working station with LINK_FAULT. A RELEASE that waited for the frame is filled first. (The model's choices: the
bit fault's row stands at the end of its frame, log 9; a blocked claim is examined after either, R46, log 34; the line
is idle 3 µs after a failed own copy, log 39.) -/
def Obligations.OwnFrameFailuresAreCounted : Prop :=
  ∀ (s : State) (dt : Time) (f : OwnFrame), s.part.receiving = true → s.part.link.onLine = some f →
    let p := s.part.elapse dt
    let counted := fun q : Fc4 =>
      if q.link.fails < 2 then { q with link := { q.link with fails := q.link.fails + 1 } }
      else if working q.ctl.mode then ({ q with link := { q.link with fails := 0 } }).enterStopped .linkFault
      else { q with link := { q.link with fails := 0 } }
    let failed : Fc4 := { p with link := { p.link with onLine := none, seq := p.link.seq + 1, idleFrom := p.now + us 3 } }
    let broken : Fc4 := { p with link := { p.link with onLine := none } }
    exec (.ownCopyFail dt) s = .next { s with part := (counted failed.flushRelease).closeCheck.recheck } ∧
    exec (.bitFault dt false) s = .next { s with part := (counted broken.flushRelease.trustNoPeer).closeCheck.recheck }

/-- R16, R17, R185: a passing frame with the own number that the station did not complete, or a bit fault whose frame
passes, is a duplicate's: recorded in STARTING and in CFG_FAULT, a stop with DUP_STATION in a working mode, and in
STOPPED a change of the reason to DUP_STATION unless it is LINK_CUTOFF. (The bit fault's row: log 9; that a blocked
claim is examined after it, R46: log 34; when the line is idle after it, and when the receiver takes a frame after a
reset: log 39.) -/
def Obligations.DuplicateNumberStopsTheStation : Prop :=
  ∀ (s : State) (dt : Time),
    let p := s.part.elapse dt
    let used := fun q : Fc4 => { q with link := { q.link with idleFrom := q.now + us 3 } }
    let seen := fun q : Fc4 =>
      if q.ctl.mode = .starting ∨ q.ctl.mode = .cfgFault then { q with ctl := { q.ctl with dupRecorded := true } }
      else if q.ctl.mode = .stopped then
        (if q.ctl.reason = .linkCutoff then q else { q with ctl := { q.ctl with reason := .dupStation } })
      else q.enterStopped .dupStation
    (p.hears (frameTime 0) = true → exec (.dupStationFrame dt) s = .next { s with part := (seen (used p)).recheck }) ∧
    (∀ f, s.part.receiving = true → s.part.link.onLine = some f →
      exec (.bitFault dt true) s = .next { s with part :=
        (seen (used ({ p with link := { p.link with onLine := none } }).flushRelease)).closeCheck.recheck })

/-- R18, R185: after 300 µs dominant the output is disconnected and a frame on the line does not complete; recorded in
STARTING and in CFG_FAULT, a stop with LINK_CUTOFF in a working mode, and in STOPPED a change of the reason to
LINK_CUTOFF unless it is DUP_STATION. -/
def Obligations.CutOffStopsTheStation : Prop :=
  ∀ (s : State) (dt : Time), s.part.receiving = true → s.part.link.cutOff = false →
    let p := s.part.elapse dt
    let q := ({ p with link := { p.link with onLine := none, cutOff := true } }).flushRelease
    exec (.transmitterCutOff dt) s = .next { s with part :=
      (if q.ctl.mode = .starting ∨ q.ctl.mode = .cfgFault then { q with ctl := { q.ctl with cutRecorded := true } }
       else if q.ctl.mode = .stopped then
         (if q.ctl.reason = .dupStation then q else { q with ctl := { q.ctl with reason := .linkCutoff } })
       else q.enterStopped .linkCutoff).closeCheck }

/-- R12, R19, R20, R27: a long dominant run puts LINK_DOWN in force and stops a join timer. Once the line has been
recessive for 1,000 µs since that run's end LINK_DOWN ends, a held join window starts again in full, and every record is
UNSURE; a failed check leaves every record UNSURE too; and the beacon timer's expiry fills the BEACON slot and moves the
timer on by 2,000 µs. How long the line has been recessive is the row's operand, and no longer than since the run
reached its 300 µs (log 25). From when after a reset a failed check is heard, and that it leaves the instant from which
the line is idle as it was: log 39. -/
def Obligations.LinkDownBadFrameAndBeaconTimer : Prop :=
  ∀ (s : State) (dt : Time),
    let p := s.part.elapse dt
    let unsure : View := { p.view with peers := p.view.peers.map (fun x => (x.1, { x.2 with presence := .unsure, frozen := none })) }
    (s.part.hearing = true →
      exec (.linkDownEntry dt) s = .next { s with part := { p with link := { p.link with
        linkDown := some p.now
        join := match p.link.join with
          | .running _ => .held
          | j => j } } }) ∧
    (∀ t quiet, s.part.receiving = true → s.part.link.linkDown = some t →
      (us 1000 ≤ quiet → t + quiet ≤ p.now →
        exec (.linkDownEnd ⟨dt, quiet⟩) s = .next { s with part := ({ p with view := unsure, link := { p.link with
          linkDown := none
          join := match p.link.join with
            | .held => .running (p.now + us 10000)
            | j => j } }).pairRecheck.recheck }) ∧
      (quiet < us 1000 ∨ p.now < t + quiet → exec (.linkDownEnd ⟨dt, quiet⟩) s = .next { s with part := p })) ∧
    (p.hears earliestFailure = true →
      exec (.checkFailure dt) s = .next { s with part := ({ p with view := unsure }).pairRecheck.recheck }) ∧
    (∀ due, s.part.link.beaconDue = some due → due ≤ p.now →
      exec (.beaconTimer dt) s = .next { s with part := p.fillBeacon due } ∧
      (p.fillBeacon due).link.beacon = true ∧ (p.fillBeacon due).link.beaconDue = some (due + us 2000) ∧
      p.fillBeacon due = { p with link := (p.fillBeacon due).link })

/-! ### Frames heard from heads (chapters 02, 03, 05) -/

/-- R1, R21, R23, R24, R29: a frame heard from another head updates its sender's record alone: the sequence number, the
time, presence by the sequence step, and no frozen state; no other record changes. What the frame carries in each field
is the next statement. The held area, the height table but for a TOUCH, the drives' reports and the refusal list are as
before. A frame is heard where no reset is in progress, the station is not strapped 0, no frame of its own is on the
line (log 7) and the line was idle for 3 µs after the last reset before the frame began (log 39), from its length in
bytes (R2); one that is not heard changes nothing but the time, and the same holds of LOAD, HALT, every COMMAND and a
frame with the own number (R5, R179). (A BEACON that is not well formed is tracked as a frame that is no
BEACON: log 45.) -/
def Obligations.HeardFrameTracksItsSender : Prop :=
  (∀ (s : State) (dt : Time) (h : Header) (bb : BeaconBody) (cb : ClaimBody) (rb : ReleaseBody) (ab : AskBody)
    (tb : TouchBody) (target : Station) (tag reason : Nat) (row : Instr),
    row ∈ [.beaconReceived dt h bb, .claimReceived dt h cb, .releaseReceived dt h rb, .askReceived dt h target ab,
      .touchReceived dt h tb, .joinedReceived dt h target tag, .doneReceived dt h target tag,
      .abandonReceived dt h target reason tag, .statusHeard dt h, .resultHeard dt h, .unassignedFrame dt h,
      .invalidSenderFrame dt h, .malformedFrame dt h] →
    h.sender ≠ s.part.own → h.sender ≠ 0 →
    let beacon := row = .beaconReceived dt h bb ∧ beaconOk bb = true
    ((s.part.elapse dt).hears (frameTime (heardLength row)) = false →
      exec row s = .next { s with part := s.part.elapse dt }) ∧
    ((s.part.elapse dt).hears (frameTime (heardLength row)) = true →
      ∃ t r, exec row s = .next t ∧ t.part.record h.sender = some r ∧
        r.lastSeq = h.seq ∧ r.lastHeard = s.part.now + dt ∧ r.frozen = none ∧
        (∀ peer, peer ≠ h.sender → t.part.record peer = s.part.record peer) ∧
        (beacon → ((∀ o, s.part.record h.sender = some o → o.presence = .silent ∨ h.seq = o.lastSeq + 1) → r.presence = .present) ∧
          (∀ o, s.part.record h.sender = some o → o.presence ≠ .silent → h.seq ≠ o.lastSeq + 1 → r.presence = .unsure)) ∧
        (¬ beacon → (∀ o, s.part.record h.sender = some o → o.presence ≠ .silent → h.seq = o.lastSeq + 1 →
            r.presence = o.presence) ∧
          ((∀ o, s.part.record h.sender = some o → o.presence = .silent ∨ h.seq ≠ o.lastSeq + 1) → r.presence = .unsure)) ∧
        t.part.resv.heldBox = s.part.resv.heldBox ∧ t.part.resv.heldLines = s.part.resv.heldLines ∧
        (row ≠ .touchReceived dt h tb → t.part.heights = s.part.heights) ∧
        t.part.motion.ax = s.part.motion.ax ∧ t.part.motion.ay = s.part.motion.ay ∧
        t.part.results.refusals = s.part.results.refusals ∧ t.part.link.seq = s.part.link.seq)) ∧
  (∀ (s : State) (dt : Time) (target : Station) (records : List LoadRecord) (straps : Straps)
    (reading : CarriageReading) (code : Byte) (row : Instr) (len : Nat),
    (row, len) ∈ [(.loadReceived dt target records, 1 + 22 * records.length), (.halt dt target, 0), (.dupStationFrame dt, 0),
      (.start dt target, 1), (.pause dt target, 1), (.clear dt target, 1), (.purge dt target, 1), (.park dt target, 1),
      (.query dt target, 1), (.reset dt target straps reading, 1), (.unknownCommand dt target code, 1)] →
    (s.part.elapse dt).hears (frameTime len) = false → exec row s = .next { s with part := s.part.elapse dt }) ∧
  ∀ (p : Fc4) (len : Nat),
    (p.hears (frameTime len) = true ↔ p.ctl.resetHold = none ∧ p.ctl.number ≠ 0 ∧ p.link.onLine = none ∧
      p.ctl.resetEnded + us 3 + 45 * (len + 5) ≤ p.now) ∧
    p.lineUsed = { p with link := { p.link with idleFrom := p.now + us 3 } }

/-- R24 to R26, R33: what each frame puts into its sender's record beside the tracking, and that every line which the
frame takes out of the record's held lines or effective lines rests for 200 µs, while every other rest is as before.
`r0` is the record after the tracking alone. -/
def Obligations.HeardFieldsAreTakenAndLinesRest : Prop :=
  ∀ (s : State) (dt : Time) (h : Header) (bb : BeaconBody) (cb : ClaimBody) (rb : ReleaseBody) (ab : AskBody)
    (tb : TouchBody) (target : Station) (tag reason : Nat) (row : Instr) (new : PeerRecord),
    let r0 := trackRecord (s.part.record h.sender) (decide (row = .beaconReceived dt h bb)) h.seq (s.part.now + dt)
    (row = .beaconReceived dt h bb ∧ bb.wf = true ∧ new = { r0 with
        side := some bb.side, mode := some bb.mode, reach := bb.reach, held := bb.held, lines := bb.lines
        frontTag := bb.frontTag, landed := bb.landed, atHaven := bb.atHaven }) ∨
      (row = .claimReceived dt h cb ∧ cb.wf = true ∧
        new = { r0 with side := some cb.side, held := some cb.box, lines := cb.lines }) ∨
      (row = .releaseReceived dt h rb ∧ rb.wf = true ∧
        new = { r0 with side := some rb.side, held := some rb.box, lines := rb.lines, atHaven := rb.atHaven }) ∨
      (row = .askReceived dt h target ab ∧ ab.box.wf = true ∧ new = { r0 with side := some ab.side }) ∨
      (row = .touchReceived dt h tb ∧ new = { r0 with side := some tb.side, frontTag := tb.tag, landed := true }) ∨
      ((row = .doneReceived dt h target tag ∨ row = .abandonReceived dt h target reason tag) ∧
        new = { r0 with landed := false }) ∨
      (row ∈ [.joinedReceived dt h target tag, .statusHeard dt h, .resultHeard dt h, .unassignedFrame dt h,
        .invalidSenderFrame dt h, .malformedFrame dt h] ∧ new = r0) →
    (s.part.elapse dt).hears (frameTime (heardLength row)) = true → h.sender ≠ s.part.own → h.sender ≠ 0 →
    ∃ t, exec row s = .next t ∧ t.part.record h.sender = some new ∧
      ∀ l,
        ((∃ o, s.part.record h.sender = some o ∧
            ((holdsLine o.lines l = true ∧ holdsLine new.lines l = false) ∨ (l ∈ effectiveLines o ∧ l ∉ effectiveLines new))) →
          restOf t.part.view.rests l = some (s.part.now + dt + us 200)) ∧
        ((∀ o, s.part.record h.sender = some o →
            (holdsLine o.lines l = true → holdsLine new.lines l = true) ∧ (l ∈ effectiveLines o → l ∈ effectiveLines new)) →
          restOf t.part.view.rests l = restOf s.part.view.rests l)

/-- R3, R17, R25, R54, R62: what the other frames do beyond the record. A CLAIM ends the shadow of its sender that its
box overlaps; a BEACON that reports STOPPED or CFG_FAULT ends an ask sent to its sender (log 35); STATUS, RESULT,
unassigned, misplaced and malformed frames do nothing more; a frame with sender 0 that no head may send changes no
record. Then the partner's record is tested and a blocked claim examined. -/
def Obligations.HeardFramesReachTheirConsumer : Prop :=
  ∀ (s : State) (dt : Time) (h : Header), h.sender ≠ s.part.own →
    let p := (s.part.elapse dt).lineUsed
    let q : Fc4 := { p with view := p.view.track h false noFields p.now }
    let becomes := fun (row : Instr) (u : Fc4) =>
      (s.part.elapse dt).hears (frameTime (heardLength row)) = true → exec row s = .next { s with part := u }
    (h.sender ≠ 0 →
      becomes (.statusHeard dt h) q.pairRecheck.recheck ∧ becomes (.resultHeard dt h) q.pairRecheck.recheck ∧
      becomes (.unassignedFrame dt h) q.pairRecheck.recheck ∧ becomes (.invalidSenderFrame dt h) q.pairRecheck.recheck ∧
      becomes (.malformedFrame dt h) q.pairRecheck.recheck ∧
      (∀ b : ClaimBody, b.wf = true →
        let u : Fc4 := { p with view := p.view.track h false (claimFields b) p.now }
        let kept := p.resv.shadows.filter (fun x => !(decide (x.asker = h.sender.val) && overlaps b.box x.box))
        becomes (.claimReceived dt h b) ({ u with resv := { u.resv with shadows := kept } }).pairRecheck.recheck) ∧
      (∀ b : BeaconBody, b.wf = true →
        let u : Fc4 := { p with view := p.view.track h true (beaconFields b) p.now }
        let ends := ∃ a, p.resv.ask = some a ∧ a.target = h.sender ∧ a.sent.isSome = true ∧ (b.mode = .stopped ∨ b.mode = .cfgFault)
        (ends → becomes (.beaconReceived dt h b) u.endAsk.pairRecheck.recheck) ∧
        (¬ ends → becomes (.beaconReceived dt h b) u.pairRecheck.recheck))) ∧
    (h.sender = 0 →
      becomes (.unassignedFrame dt h) p.recheck ∧ becomes (.invalidSenderFrame dt h) p.recheck ∧
      becomes (.malformedFrame dt h) p.recheck)

/-- R54: a RELEASE of the ask's target that states AT_HAVEN ends the ask, and where the target's box still overlaps
the claim the claim is given up; one that answers this station ends the ask; any other ends nothing. -/
def Obligations.ReleaseHeardAnswersTheAsk : Prop :=
  ∀ (s : State) (dt : Time) (h : Header) (b : ReleaseBody),
    (s.part.elapse dt).hears (frameTime 13) = true → h.sender ≠ s.part.own → h.sender ≠ 0 → b.wf = true →
    let p := (s.part.elapse dt).lineUsed
    let u : Fc4 := { p with view := p.view.track h false (releaseFields b) p.now }
    let asked := p.resv.ask.map Ask.target = some h.sender
    (asked → b.atHaven = true →
      (∀ c r, u.resv.claim = some c → u.record h.sender = some r → overlapsRecord u.ctl.side c.box r = true →
        exec (.releaseReceived dt h b) s = .next { s with part := (u.endAsk.giveUp c).pairRecheck.recheck }) ∧
      ((∀ c r, u.resv.claim = some c → u.record h.sender = some r → overlapsRecord u.ctl.side c.box r = false) →
        exec (.releaseReceived dt h b) s = .next { s with part := u.endAsk.pairRecheck.recheck })) ∧
    (asked → b.atHaven = false → b.answerTo = s.part.own.val →
      exec (.releaseReceived dt h b) s = .next { s with part := u.endAsk.pairRecheck.recheck }) ∧
    (¬ asked ∨ (b.atHaven = false ∧ b.answerTo ≠ s.part.own.val) →
      exec (.releaseReceived dt h b) s = .next { s with part := u.pairRecheck.recheck })

/-- R36, R56 to R62, R79, R91: an ASK aimed at a working station joins the received-ask set in place of one from the
same asker, and a yield falls due where none is; against an own ask to the asker the lower station number wins: from a
higher one the ask is not taken, from a lower one the own ask ends first. An ask aimed elsewhere, or at a station that
is not working, is not taken. A due yield begins once the axes stand, Z is raised, no other yield is under way, no touch
is in its DESCENT stage, and, where it fell due after the lift of a touch in FINISHING, that touch has ended (log 14; so
does a yield that falls due at the haven: log 49). It drops a move still claimed or permitted, whose touch goes back to
QUEUED, and a PARK (log 18); at the haven it answers at once, elsewhere it asks for the move there. An answer is a
RELEASE to the lowest asker, one shadow for each asker for 50 ms in place of an older one of that asker (in rising
order: log 41), an empty set and no due yield, at once also where that RELEASE must wait (the model's choice:
log 53). -/
def Obligations.AskHeardJoinsTheSet : Prop :=
  (∀ (s : State) (dt : Time) (h : Header) (target : Station) (b : AskBody),
    (s.part.elapse dt).hears (frameTime 11) = true → h.sender ≠ s.part.own → h.sender ≠ 0 → b.box.wf = true →
    let p := (s.part.elapse dt).lineUsed
    let u : Fc4 := { p with view := p.view.track h false (askFields b) p.now }
    let joins := fun q : Fc4 =>
      let q1 : Fc4 := { q with resv := { q.resv with asks := tablePut h.sender.val b.box q.resv.asks } }
      if q.resv.yieldDue then q1 else q1.yieldFallsDue
    let taken := target = s.part.own ∧ working s.part.ctl.mode = true
    let crossed := p.resv.ask.map Ask.target = some h.sender
    (taken → ¬ crossed → exec (.askReceived dt h target b) s = .next { s with part := (joins u).pairRecheck.recheck }) ∧
    (taken → crossed → h.sender.val < s.part.own.val →
      exec (.askReceived dt h target b) s = .next { s with part := (joins u.endAsk).pairRecheck.recheck }) ∧
    (¬ taken ∨ (crossed ∧ s.part.own.val < h.sender.val) →
      exec (.askReceived dt h target b) s = .next { s with part := u.pairRecheck.recheck })) ∧
  ∀ q : Fc4,
    let finishing := ∃ r, q.pair.rdv = some r ∧ r.state = .finishing
    let due := fun atClose : Bool => ({ q with
      resv := { q.resv with yieldDue := true, yieldAtClose := atClose }, work := { q.work with waiting := false } }).yieldIfReady
    (finishing ∧ q.motion.zState = .raised → q.yieldFallsDue = due true) ∧
    (¬ (finishing ∧ q.motion.zState = .raised) → q.yieldFallsDue = due false) ∧
    (let ready := q.resv.yieldDue = true ∧ q.motion.axis = .standing ∧ q.motion.zState = .raised ∧
        (∀ c, q.resv.claim = some c → c.who ≠ .yield) ∧ (∀ m, q.motion.permitted = some m → m.purpose ≠ .yield) ∧
        (∀ m, q.motion.move = some m → m.purpose ≠ .yield) ∧ (∀ t, q.work.touch = some t → t.stage ≠ .descent) ∧
        ¬ (q.resv.yieldAtClose = true ∧ finishing);
      (ready ↔ q.yieldReady = true) ∧ (ready → q.yieldIfReady = q.beginYield) ∧ (¬ ready → q.yieldIfReady = q)) ∧
    (let u := q.yieldClears.pauseCheck;
      let there := u.motion.axis = .standing ∧ u.here = u.geo.haven;
      (there → q.beginYield = (u.answerAsks .atHaven).testStart) ∧
      (¬ there → q.beginYield = u.requestMove .yield u.geo.haven)) ∧
    (let dropped : Fc4 :=
        if q.resv.claim.isSome ∨ q.motion.permitted.isSome then
          ({ q.withdrawClaim with motion := { q.motion with permitted := none } }).requeueTouch
        else q;
      q.yieldClears = { dropped with motion := { dropped.motion with park := false } }) ∧
    (q.work.touch = none → q.requeueTouch = q) ∧
    (q.work.touch.isSome = true → q.requeueTouch = { q with
      work := { q.work with touch := none, list := q.work.list.map (fun e => if e.st = .active then { e with st := .queued } else e) }
      pair := { q.pair with rdv := none } }) ∧
    (∀ cause : Nat → ReleaseCause,
      (q.resv.asks = [] → q.answerAsks cause = (q.releaseDue (cause 0)).settleAsks) ∧
      (∀ a rest, q.resv.asks = a :: rest → q.answerAsks cause = (q.releaseDue (cause a.1)).settleAsks ∧
        (tableSorted q.resv.asks = true → ∀ b ∈ rest, a.1 < b.1))) ∧
    (tableSorted q.resv.asks = true → q.settleAsks = { q with resv := { q.resv with
      asks := [], yieldDue := false, yieldAtClose := false
      shadows := q.resv.shadows.filter (fun x => decide (∀ a ∈ q.resv.asks, a.1 ≠ x.asker)) ++
        q.resv.asks.map (fun a => ⟨a.1, a.2, q.now + ms 50⟩) } })

/-- R89, R93, R134: a TOUCH leaves its sender's note (or removes it, for tag 0), and gives its height to the table's
cell of its pad where side, height, pad and mode allow. A partner whose late TOUCH shows the same tag and the same
role as the open rendezvous in LINKING or JOINED_WAIT, unchecked so far (log 36), ends it with MISMATCH. -/
def Obligations.TouchHeardIsNotedAndSampled : Prop :=
  ∀ (s : State) (dt : Time) (h : Header) (b : TouchBody),
    (s.part.elapse dt).hears (frameTime 10) = true → h.sender ≠ s.part.own → h.sender ≠ 0 →
    let p := (s.part.elapse dt).lineUsed
    let u : Fc4 := { p with
      view := p.view.track h false (touchFields b) p.now
      pair := { p.pair with notes :=
        if b.tag = 0 then tableDrop h.sender.val p.pair.notes else tablePut h.sender.val ⟨b.tag, b.role⟩ p.pair.notes }
      heights :=
        if b.side = p.ctl.side ∧ b.height ≤ 40000 ∧ b.pad.x ≤ 1048575 ∧ b.pad.y ≤ 1048575 ∧ p.ctl.mode ≠ .starting then
          takeSample p.heights b.pad b.height
        else p.heights }
    let late := ∃ r, p.pair.rdv = some r ∧ r.partner = h.sender ∧ b.tag = r.tag ∧ b.role = some r.role ∧
      r.roleChecked = false ∧ (r.state = .linking ∨ r.state = .joinedWait)
    (late → exec (.touchReceived dt h b) s = .next { s with part := (u.endRendezvous .mismatch false).pairRecheck.recheck }) ∧
    (¬ late → exec (.touchReceived dt h b) s = .next { s with part := u.pairRecheck.recheck })

/-- R84, R89, R96, R98, R103, R106: a JOINED with the own number and the open tag, from the partner of a SOURCE, starts
the measurement in JOINED_WAIT and is kept in HEADING, LANDED_WAIT and LINKING; any other JOINED does nothing more. DONE
and ABANDON remove their sender's note. A DONE for the open tag from a SENSE's partner ends its HOLDING with outcome
SENSED and without a frame of its own, and ends an earlier state with PARTNER_ABANDONED; an ABANDON for the open tag
from the partner ends any state but FINISHING so, and with no such record open removes a QUEUED entry of that tag and
partner. Frames aimed elsewhere do nothing more. The start of a measurement is the entry's, for the Pair Unit, with Z
landed and the unit IDLE, and stops the timer; before that the JOINED is kept (log 48). A SENSE that is done withdraws
its pending JOINED, opens its switch, stops its timer and lifts. -/
def Obligations.PairFramesReachTheRendezvous : Prop :=
  (∀ (s : State) (dt : Time) (h : Header) (target : Station) (reason tag : Nat),
    (s.part.elapse dt).hears (frameTime 4) = true → h.sender ≠ s.part.own → h.sender ≠ 0 →
    let p := (s.part.elapse dt).lineUsed
    let q : Fc4 := { p with view := p.view.track h false noFields p.now }
    let u : Fc4 := { p with view := p.view.track h false unlandedFields p.now
                            pair := { p.pair with notes := tableDrop h.sender.val p.pair.notes } }
    let opened := fun r : Rendezvous => target = s.part.own ∧ r.tag = tag
    let meant := fun r : Rendezvous => opened r ∧ r.partner = h.sender ∧ r.role = .source
    let joined := exec (.joinedReceived dt h target tag) s
    let done := exec (.doneReceived dt h target tag) s
    let abandon := exec (.abandonReceived dt h target reason tag) s
    (∀ r, p.pair.rdv = some r → meant r → r.state = .joinedWait →
      joined = .next { s with part := q.startMeasuring.pairRecheck.recheck }) ∧
    (∀ r, p.pair.rdv = some r → meant r → r.state ∈ [.heading, .landedWait, .linking] →
      joined = .next { s with part :=
        ({ q with pair := { q.pair with rdv := some { r with joinedHeard := true } } }).pairRecheck.recheck }) ∧
    ((∀ r, p.pair.rdv = some r → meant r → r.state ∈ [.measuring, .holding, .finishing]) →
      joined = .next { s with part := q.pairRecheck.recheck }) ∧
    (∀ r, p.pair.rdv = some r → opened r → r.partner = h.sender → r.role = .sense → r.state = .holding →
      done = .next { s with part := u.sensed.pairRecheck.recheck }) ∧
    (∀ r, p.pair.rdv = some r → opened r → r.partner = h.sender → r.role = .sense → r.state ∈ [.heading, .landedWait, .linking] →
      done = .next { s with part := (u.endRendezvous .partnerAbandoned true).pairRecheck.recheck }) ∧
    ((∀ r, p.pair.rdv = some r → opened r → r.partner = h.sender → r.role = .sense →
        r.state ∈ [.joinedWait, .measuring, .finishing]) →
      done = .next { s with part := u.pairRecheck.recheck }) ∧
    (∀ r, p.pair.rdv = some r → opened r → r.partner = h.sender → r.state ≠ .finishing →
      abandon = .next { s with part := (u.endRendezvous .partnerAbandoned true).pairRecheck.recheck }) ∧
    (target = s.part.own → (∀ r, p.pair.rdv = some r → r.tag ≠ tag) →
      (∀ e, s.part.work.list.find? (fun e => decide (e.st = .queued) &&
          decide (e.terms.map (fun t => (t.partner, t.tag)) = some (h.sender, tag))) = some e →
        abandon = .next { s with part :=
          (u.produceResult e.id (buildResult e .partnerAbandoned none none)).testStart.pairRecheck.recheck }) ∧
      (s.part.work.list.find? (fun e => decide (e.st = .queued) &&
          decide (e.terms.map (fun t => (t.partner, t.tag)) = some (h.sender, tag))) = none →
        abandon = .next { s with part := u.pairRecheck.recheck })) ∧
    ((∃ r, p.pair.rdv = some r ∧ opened r ∧ (r.partner ≠ h.sender ∨ r.state = .finishing)) ∨ target ≠ s.part.own →
      abandon = .next { s with part := u.pairRecheck.recheck })) ∧
  (∀ q : Fc4,
    (∀ e r, q.activeEntry = some e → q.pair.rdv = some r → q.motion.zState = .landed → q.meas.state = .idle →
      q.startMeasuring = { q with
        meas := q.meas.begin .pairUnit ⟨e.kind, e.low, e.high, e.hint⟩ q.now
        pair := { q.pair with rdv := some { r with state := .measuring, timer := none } } }) ∧
    (∀ r, q.pair.rdv = some r → q.activeEntry = none ∨ q.motion.zState ≠ .landed ∨ q.meas.state ≠ .idle →
      q.startMeasuring = { q with pair := { q.pair with rdv := some { r with joinedHeard := true } } })) ∧
  ∀ (q : Fc4) (r : Rendezvous) (t : TouchRecord), q.pair.rdv = some r → q.work.touch = some t → t.stage = .measure →
    q.meas.state = .idle → q.motion.zState = .landed →
    q.sensed = { q with
      link := q.link.withdrawPair
      meas := { q.meas with forceSw := none, retSw := none, senseSw := none }
      pair := { q.pair with rdv := some { r with
        outcome := some .sensed, timer := none, quiet := true, state := .finishing, connected := false } }
      work := { q.work with touch := some { t with outcome := some .sensed, stage := .lift } }
      motion := { q.motion with zState := .lifting, descent := none, handed := none, liftWanted := false } }

/-! ### Silence and timers -/

/-- R28, R54: 8,000 µs after it was last heard, a peer's record falls SILENT with the effective box and lines of that
moment frozen, and an ask to it ends. R34: a line's rest that is reached is cleared. R62: a shadow that is reached is
gone. R46: a claim that stands blocked is examined again by the 50 µs timer (its phase: log 13). -/
def Obligations.SilenceRestShadowAndRecheckTimers : Prop :=
  ∀ (s : State) (dt : Time),
    let p := s.part.elapse dt
    (∀ peer r, s.part.receiving = true → s.part.record peer = some r → r.presence ≠ .silent → r.lastHeard + us 8000 ≤ p.now →
      let gone := { r with presence := .silent, frozen := some ⟨effectiveBox p.ctl.side r, effectiveLines r⟩ }
      let u : Fc4 := { p with view := { p.view with peers := tablePut peer.val gone p.view.peers } }
      exec (.peerSilence dt peer) s = .next { s with part :=
        (if p.resv.ask.map Ask.target = some peer then u.endAsk else u).pairRecheck.recheck }) ∧
    (∀ line t, restOf s.part.view.rests line = some t → t ≤ p.now →
      exec (.lineRestExpiry dt line) s =
        .next { s with part := { p with view := { p.view with rests := setRest p.view.rests line none } } }) ∧
    (∀ asker x, x ∈ s.part.resv.shadows → x.asker = asker.val → x.expiry ≤ p.now →
      exec (.yieldShadowExpiry dt asker) s = .next { s with part := ({ p with resv := { p.resv with
        shadows := p.resv.shadows.filter (fun y => !(decide (y.asker = asker.val) && decide (y.expiry ≤ p.now))) } }).recheck }) ∧
    (s.part.resv.claim.isSome = true → s.part.resv.blockedSince.isSome = true → s.part.link.claim = none →
      (∀ t, s.part.resv.recheckDue = some t → t ≤ p.now) →
      exec (.claimRecheckTimer dt) s =
        .next { s with part := ({ p with resv := { p.resv with recheckDue := some (p.now + us 50) } }).examine })

/-! ### The Reservation Unit's operations -/

/-- R28, R30, R31, R34, R45: a claim passes exactly when its box overlaps no record's effective box and no standing
yield shadow, contains the standing box, and every line it adds is free. At the very instant its end is due a shadow
still stands and a line still rests, until that end is taken (log 12). A record's effective box is none on the other
side; else, or with the side unknown, PRESENT the whole frame in CFG_FAULT, else its held box, UNSURE (and PRESENT
without one) its reach box or the whole frame, SILENT the frozen box. Its effective lines are its held lines PRESENT,
all four UNSURE, the frozen ones SILENT. -/
def Obligations.ClaimPassesByFourTests : Prop :=
  (∀ (p : Fc4) (b : Box) (lines : LineRoles),
    p.claimPasses b lines = true ↔
      (∀ x ∈ p.view.peers, ∀ e, effectiveBox p.ctl.side x.2 = some e → overlaps b e = false) ∧
      (∀ x ∈ p.resv.shadows, p.now ≤ x.expiry → overlaps b x.box = false) ∧
      inside p.standing b = true ∧
      (∀ l, holdsLine lines l = true → holdsLine p.resv.heldLines l = false →
        (∀ x ∈ p.view.peers, l ∉ effectiveLines x.2) ∧ (∀ t, restOf p.view.rests l = some t → t < p.now))) ∧
  ∀ (own : Side) (r : PeerRecord),
    let whole : Box := ⟨0, 1048575, 0, 1048575⟩
    let box := effectiveBox own r
    (∀ side, r.side = some side → side ≠ own → box = none) ∧
    ((∀ side, r.side = some side → side = own) →
      (r.presence = .present → r.mode = some .cfgFault → box = some whole) ∧
      (r.presence = .present → r.mode ≠ some .cfgFault → box = some (r.held.getD (r.reach.getD whole))) ∧
      (r.presence = .unsure → box = some (r.reach.getD whole)) ∧
      (r.presence = .silent → (∀ f, r.frozen = some f → box = f.box) ∧ (r.frozen = none → box = none))) ∧
    ∀ l, l ∈ effectiveLines r ↔
      (r.presence = .present ∧ (r.lines.force = some l ∨ r.lines.ret = some l)) ∨ r.presence = .unsure ∨
      (r.presence = .silent ∧ ∃ f, r.frozen = some f ∧ l ∈ f.lines)

/-- R43 to R46, R51, R53: an examination of the pending claim, and all it can change. A LINE claim takes the two lowest
free lines and the box now held. A claim that passes fills its slot; one that fails, or finds fewer than two lines
free, is blocked from its first failing examination on; and its slot is left as it was. Beside the pending claim, the
blocked time, the timer, the ask, the CLAIM and ASK slots, and whether the own frame on the line counts as withdrawn or
its slot as filled again, nothing changes. -/
def Obligations.ExaminationFillsOrBlocks : Prop :=
  ∀ p : Fc4,
    (p.resv.claim = none → p.examine = p) ∧
    (∀ c, p.resv.claim = some c → ∃ u, p.examine = u ∧
      (∀ c', p.claimNow c = some c' → p.claimPasses c'.box c'.lines = true →
        u.resv.claim = some c' ∧ u.link.claim = some ⟨c'.box, c'.lines, c'.tag⟩ ∧ u.resv.blockedSince = p.resv.blockedSince) ∧
      ((∀ c', p.claimNow c = some c' → p.claimPasses c'.box c'.lines = false) →
        u.resv.claim = some c ∧ u.link.claim = p.link.claim ∧ u.resv.blockedSince = some (p.resv.blockedSince.getD p.now)) ∧
      (c.kind = .move → p.claimNow c = some c) ∧
      (c.kind = .line → ∀ a b rest, p.freeLines = a :: b :: rest →
        p.claimNow c = some { c with box := p.heldOrStanding, lines := ⟨some a, some b⟩ }) ∧
      (c.kind = .line → p.freeLines.length < 2 → p.claimNow c = none) ∧
      (p.resv.ask = none → c.kind = .line → u.resv.ask = none) ∧
      (u.link.onLine = p.link.onLine ∨ ∃ f w r, p.link.onLine = some f ∧
        u.link.onLine = some { f with withdrawn := w, refilled := r }) ∧
      u = { p with
        link := { p.link with claim := u.link.claim, ask := u.link.ask, onLine := u.link.onLine }
        resv := { p.resv with claim := u.resv.claim, blockedSince := u.resv.blockedSince
                              recheckDue := u.resv.recheckDue, ask := u.resv.ask } })

/-- R46, R53, R54: an examination at which a MOVE claim fails and no ask is outstanding: the claim is blocked from its
first failing one on; 5,000 µs after that it asks the lowest-numbered PRESENT peer whose effective box overlaps its box,
and asks none before that or where no PRESENT peer's does; an ask whose frame has not completed ends where its target is
no such peer any longer. R48, R54, R55, R59, R76, R78: a MOVE claim blocked for 500 ms is withdrawn with its blocked
time and its ask and given up. A touch's claim defers its entry where the entry may be deferred, and else ends the touch
with AREA_TIMEOUT; a PARK ends; a yield is given up with its answer (its shadows timed from then also
where the RELEASE must wait: the model's choice, log 53). (The phase of the re-check timer: log 13.) -/
def Obligations.BlockedClaimAsksThenIsGivenUp : Prop :=
  (∀ (p : Fc4) (c : Claim), p.resv.claim = some c → c.kind = .move → p.claimPasses c.box c.lines = false →
    let blocks := fun peer : Station => ∃ r e, p.record peer = some r ∧ r.presence = .present ∧
      effectiveBox p.ctl.side r = some e ∧ overlaps c.box e = true
    let u := p.examine
    (p.resv.ask = none →
      (p.resv.blockedSince = none → u = { p with resv := { p.resv with blockedSince := some p.now, recheckDue := none } }) ∧
      ∀ t, p.resv.blockedSince = some t →
        (p.now < t + us 5000 → u = p) ∧
        (t + us 5000 ≤ p.now →
          (∀ peer, blocks peer → (∀ o, o.val < peer.val → ¬ blocks o) →
            u = { p with resv := { p.resv with ask := some ⟨peer, c.box, none⟩ }, link := p.link.fillAsk ⟨peer, c.box⟩ } ∧
            u.link.ask = some ⟨peer, c.box⟩) ∧
          ((∀ peer, ¬ blocks peer) → u = p))) ∧
    (∀ a, p.resv.ask = some a →
      (a.sent.isSome = true ∨ blocks a.target → u.resv.ask = some a) ∧
      (a.sent = none → ¬ blocks a.target → (∀ peer, ¬ blocks peer) → u.resv.ask = none ∧ u.link.ask = none))) ∧
  (∀ (s : State) (dt : Time) (c : Claim) (t : Time),
    s.part.resv.claim = some c → s.part.resv.blockedSince = some t → c.kind = .move →
    let p := s.part.elapse dt
    t + ms 500 ≤ p.now →
    let u := p.withdrawClaim
    let becomes := fun q : Fc4 => exec (.claimGiveUp dt) s = .next { s with part := q }
    (c.who = .touchList → ∀ e, p.activeEntry = some e →
      (p.deferAllowed e = true → becomes (u.deferEntry e).afterTouch) ∧
      (p.deferAllowed e = false → becomes (u.endTouch .areaTimeout))) ∧
    (c.who = .touchList → p.activeEntry = none → becomes u) ∧
    (c.who = .park → becomes { u with motion := { u.motion with park := false } }) ∧
    (c.who = .yield → becomes (u.answerAsks .yieldGivenUp).testStart) ∧
    (c.who = .pairUnit → becomes u)) ∧
  ∀ p : Fc4,
    (p.resv.claim = none → p.withdrawClaim = p) ∧
    (p.resv.claim.isSome = true → p.withdrawClaim = ({ p with
      resv := { p.resv with claim := none, blockedSince := none, recheckDue := none }
      link := p.link.withdrawClaim }).endAsk) ∧
    (p.resv.ask = none → p.endAsk = p) ∧
    (∀ a, p.resv.ask = some a →
      (a.sent = none → p.endAsk = { p with resv := { p.resv with ask := none }, link := p.link.withdrawAsk }) ∧
      (a.sent.isSome = true → p.endAsk = { p with resv := { p.resv with ask := none } })) ∧
    (let stamped := fun k : FrameKind => p.link.onLine.map (fun f : OwnFrame =>
        if f.content.kind = k then { f with withdrawn := true, refilled := false } else f);
      p.link.withdrawClaim = { p.link with claim := none, onLine := stamped .claim } ∧
      p.link.withdrawAsk = { p.link with ask := none, onLine := stamped .ask })

/-- What the tests that follow a row leave as it was, whatever they bring about (the end of a touch, the next start, a
yield, a stop): the clock, the Peer View, the Height Table, the touch notes, the held box and lines, the sequence
counter, the failure count, LINK_DOWN, the join window, the drives' reports, Z, the overload latch, the refusals, the
last command, the station's number, its configuration and its reset source. -/
def Obligations.FollowUpsLeaveTheRest : Prop :=
  ∀ p u : Fc4,
    u ∈ [p.recheck, p.closeCheck, p.pairRecheck, p.testStart, p.afterTouch, p.handOver, p.flushRelease, p.yieldIfReady,
      p.parkProceeds, p.dropLinesIfDone, p.senseLines, p.meet, p.testPacking, p.endAsk, p.withdrawClaim] →
    u.now = p.now ∧ u.view = p.view ∧ u.heights = p.heights ∧ u.pair.notes = p.pair.notes ∧
    u.resv.heldBox = p.resv.heldBox ∧ u.resv.heldLines = p.resv.heldLines ∧
    u.link.seq = p.link.seq ∧ u.link.fails = p.link.fails ∧ u.link.linkDown = p.link.linkDown ∧ u.link.join = p.link.join ∧
    u.link.cutOff = p.link.cutOff ∧ u.motion.ax = p.motion.ax ∧ u.motion.ay = p.motion.ay ∧ u.motion.z = p.motion.z ∧
    u.motion.latch = p.motion.latch ∧ u.results.refusals = p.results.refusals ∧ u.results.last = p.results.last ∧
    u.ctl.number = p.ctl.number ∧ u.ctl.config = p.ctl.config ∧ u.ctl.source = p.ctl.source

/-! ### Resets and start-up (chapter 10) -/

/-- R1, R8, R14, R20, R38, R40, R87, R108, R109, R129, R139, R141, R163, R177, R178, R181, R182: what a reset leaves,
block by block and field by field. The supply's rise, the reset line and a taken RESET (one aimed at the station or at
all, in any mode but STARTING) empty every slot, table, list, queue and record, open every switch, discharge the probe,
send STOP to both axes, take the axes and Z as they stand and put the station in STARTING with the source of the reset
(from where the reset discharge is timed: log 8; when the line is idle after it: log 39; the instants and flags of the
record that no rule reads before they are set: log 5; that each drive counts as having answered: log 21). -/
def Obligations.ResetClearsEveryBlock : Prop :=
  ∀ (s : State) (dt : Time) (r : CarriageReading) (target : Station) (straps : Straps) (row : Instr),
    row = .powerOn dt r ∨ row = .resetLineAsserted dt r ∨
      (row = .reset dt target straps r ∧ (s.part.elapse dt).hears (frameTime 1) = true ∧ s.part.ctl.mode ≠ .starting ∧
        (target = s.part.own ∨ target = 0)) →
    ∃ t, exec row s = .next t ∧
      t.part.link = { release := none, ask := none, claim := none, touch := none, pair := none, beacon := false
                      status := false, result := false, onLine := none, seq := 0, fails := 0, cutOff := false
                      linkDown := none, join := .closed, beaconDue := none
                      idleFrom := if row = .reset dt target straps r then s.part.now + dt + us 3 else 0 } ∧
      t.part.view = ⟨[], ⟨none, none, none, none⟩⟩ ∧
      t.part.resv = { heldBox := none, heldLines := ⟨none, none⟩, claim := none, blockedSince := none
                      recheckDue := none, ask := none, asks := [], yieldDue := false, yieldAtClose := false
                      shadows := [], waiting := none } ∧
      t.part.work = ⟨[], none, false⟩ ∧ t.part.pair = ⟨none, []⟩ ∧ t.part.heights = [] ∧
      t.part.results = ⟨[], [], 0, none⟩ ∧
      t.part.motion = { axis := .stopping, ax := ⟨r.x.pos, r.x.inPosition, r.x.fault, true⟩
                        ay := ⟨r.y.pos, r.y.inPosition, r.y.fault, true⟩, outX := .stop, outY := .stop, move := none
                        stopFrom := none, permitted := none, faultSeen := false
                        zState := if r.z = 0 then .raised else .lifting
                        z := r.z, handed := none, descent := none, filter := 0, lostReported := false, nextSample := 0
                        latch := false, park := false, liftWanted := false } ∧
      t.part.meas = { state := .discharging, owner := none, latched := none, k := none, range := none, tried := []
                      zero := none, attempt := 0, sampleA := none, sampleB := none, sum := 0, taken := 0
                      saturated := false, flags := ⟨false, false, false, false⟩, computed := none
                      discharge := some ⟨.reset, s.part.now + dt + us 1000⟩, stimulus := none, forceSw := none
                      retSw := none, senseSw := none, localIn := false, dischargeOn := true, sampleDue := 0
                      timingFrom := 0, counted := false, breakAtEnd := false } ∧
      (t.part.ctl.mode = .starting ∧ t.part.ctl.reason = .noReason ∧ t.part.ctl.config = none ∧
        t.part.ctl.judgement = .pending ∧ t.part.ctl.startPos = none ∧ t.part.ctl.dupRecorded = false ∧
        t.part.ctl.cutRecorded = false ∧ t.part.ctl.axisFaulted = false) ∧
      (row = .powerOn dt r → t.part.ctl.source = .powerOn ∧ t.part.ctl.resetHold.isSome = true) ∧
      (row = .resetLineAsserted dt r → t.part.ctl.resetHold.isSome = true ∧
        ((∃ h, s.part.ctl.resetHold = some h ∧ h.supplyRose = true) → t.part.ctl.source = .powerOn) ∧
        ((∀ h, s.part.ctl.resetHold = some h → h.supplyRose = false) → t.part.ctl.source = .resetLine)) ∧
      (row = .reset dt target straps r → t.part.ctl.source = .commanded ∧ t.part.ctl.resetHold = none ∧
        t.part.ctl.number = straps.number ∧ t.part.ctl.side = straps.side)

/-- R1, R163, R179, R181: a reset ends when its last cause is gone: the straps are read, and the reset discharge runs
for 1,000 µs from there (log 8), and the line is taken as idle 3 µs later (log 39). While another cause stands, only the
one that ended is struck out. -/
def Obligations.ResetEndsWithItsLastCause : Prop :=
  ∀ (s : State) (dt : Time) (straps : Straps) (h : ResetHold), s.part.ctl.resetHold = some h →
    let p := s.part.elapse dt
    let ended : Fc4 := { p with
      ctl := { p.ctl with number := straps.number, side := straps.side, resetHold := none, resetEnded := p.now }
      meas := { p.meas with state := .discharging, stimulus := none, dischargeOn := true
                            discharge := some ⟨.reset, p.now + us 1000⟩ }
      link := { p.link with idleFrom := p.now + us 3 } }
    (h.supplyWait = true → h.line = false → exec (.powerOnSettled dt straps) s = .next { s with part := ended }) ∧
    (h.supplyWait = true → h.line = true → exec (.powerOnSettled dt straps) s =
      .next { s with part := { p with ctl := { p.ctl with resetHold := some { h with supplyWait := false } } } }) ∧
    (h.line = true → h.supplyWait = false → exec (.resetLineReleased dt straps) s = .next { s with part := ended }) ∧
    (h.line = true → h.supplyWait = true → exec (.resetLineReleased dt straps) s =
      .next { s with part := { p with ctl := { p.ctl with resetHold := some { h with line := false } } } })

/-- R20, R129, R180, R183, R185: preparation. The last image byte within 5,000 µs of the reset gives the configuration
values of a valid image and k, or judges it invalid; no whole image by then is invalid; both axes stopped give the
start-up position. When both are known, a valid image whose reach allows the position opens the join window for
10,000 µs (held while LINK_DOWN is in force), and anything else enters CFG_FAULT with a first beacon and STATUS. -/
def Obligations.PreparationEndsInJoinOrCfgFault : Prop :=
  ∀ (s : State) (dt : Time), s.part.receiving = true → s.part.ctl.mode = .starting →
    let p := s.part.elapse dt
    let known := fun (q : Fc4) (g : Option ImageConfig) (at' : Option Pos) =>
      match at', g with
      | none, _ => q
      | some _, none => (({ q with ctl := { q.ctl with mode := .cfgFault } }).fillBeacon q.now).fillStatus
      | some pos, some g =>
        if allowed g pos then { q with link := { q.link with
          join := if q.link.linkDown.isSome then .held else .running (q.now + us 10000) } }
        else (({ q with ctl := { q.ctl with mode := .cfgFault } }).fillBeacon q.now).fillStatus
    let judged := fun g : Option ImageConfig =>
      known { p with ctl := { p.ctl with judgement := if g.isSome then .valid else .invalid, config := g }
                     meas := { p.meas with k := g.map ImageConfig.samples } } g p.ctl.startPos
    (∀ image, s.part.ctl.judgement = .pending → image.length = 32 → p.now ≤ s.part.ctl.resetEnded + us 5000 →
      exec (.imageJudged dt image) s = .next { s with part := judged (judgeImage image) }) ∧
    (s.part.ctl.judgement = .pending → s.part.ctl.resetEnded + us 5000 ≤ p.now →
      exec (.imageReadTimeout dt) s = .next { s with part := judged none }) ∧
    (s.part.motion.axis = .stopping →
      (s.part.motion.ax.inPosition = true ∨ s.part.motion.ax.fault = true) →
      (s.part.motion.ay.inPosition = true ∨ s.part.motion.ay.fault = true) →
      let q : Fc4 := { p with
        motion := { p.motion with
          axis := .standing, faultSeen := p.motion.faultSeen || p.motion.ax.fault || p.motion.ay.fault }
        ctl := { p.ctl with startPos := some p.here } }
      (s.part.ctl.judgement = .pending → exec (.stopWaitEnd dt) s = .next { s with part := q }) ∧
      (∀ g, s.part.ctl.judgement = .valid → s.part.ctl.config = some g →
        exec (.stopWaitEnd dt) s = .next { s with part := known q (some g) (some p.here) }) ∧
      (s.part.ctl.judgement = .invalid → exec (.stopWaitEnd dt) s = .next { s with part := known q none (some p.here) }))

/-- R180, R197: an image of 32 bytes is valid exactly when its check holds, its integration code is 0 to 4 and its
converted fields lie in their ranges, with a haven that its reach allows; and a valid one gives the configured values so
converted. An image of another length is not valid. -/
def Obligations.ValidImageMeetsEveryCondition : Prop :=
  (∀ image : List Byte, image.length = 32 →
    let field := fieldAt image
    let g : ImageConfig :=
      { reach := boxAt image 0, haven := posAt image 10, fx := 10 * field 15 2, fy := 10 * field 17 2
        clearance := field 19 2, nominal := field 21 2, margin := 20 * field 23 1, depth := 20 * field 24 1
        overloadLevel := field 25 2 % 4096, hold := bitAt (field 25 2) 12, samples := 2 ^ (field 25 2 / 8192)
        stray := field 27 3 }
    let valid := (crc (image.take 30)).toNat = field 30 2 ∧ field 25 2 / 8192 ≤ 4 ∧
      2000 ≤ g.fx ∧ g.fx ≤ 80000 ∧ 2000 ≤ g.fy ∧ g.fy ≤ 80000 ∧ g.clearance ≤ 20000 ∧ g.nominal ≤ 40000 ∧
      100 ≤ g.margin ∧ g.margin ≤ 5000 ∧ 200 ≤ g.depth ∧ g.depth ≤ 5000 ∧ 100 ≤ g.overloadLevel ∧
      g.overloadLevel ≤ 3000 ∧ g.stray ≤ 10000000 ∧ g.reach.xmax ≤ 1048575 ∧ g.reach.ymax ≤ 1048575 ∧
      allowed g g.haven = true
    (valid → judgeImage image = some g) ∧ (¬ valid → judgeImage image = none)) ∧
  (∀ image : List Byte, image.length ≠ 32 → judgeImage image = none) ∧
  ∀ (g : ImageConfig) (pos : Pos), allowed g pos = true ↔
    (g.reach.xmin : Int) ≤ (pos.x : Int) - g.fx - g.clearance ∧ pos.x + g.fx + g.clearance ≤ g.reach.xmax ∧
    (g.reach.ymin : Int) ≤ (pos.y : Int) - g.fy - g.clearance ∧ pos.y + g.fy + g.clearance ≤ g.reach.ymax

/-- R20, R65, R129, R178, R184: when the join timer has run out, the station holds the standing box at the start-up
position and no lines (R20 says the current position; that the start-up one is taken where they differ is the model's
choice: log 26), its window is closed, its first beacon and STATUS are filled, the next beacon falls due 2,000 µs later,
and it enters STOPPED with LINK_CUTOFF, DUP_STATION or CROWDED, in that order, or IDLE; a fault seen in STARTING turns
IDLE and CROWDED into STOPPED with AXIS_FAULT. No RELEASE is filled (R63 says so of CROWDED; that it holds of the other
stops there, also after a report of another position, is the model's choice: log 26). -/
def Obligations.JoinWindowEndChoosesTheMode : Prop :=
  ∀ (s : State) (dt due : Time), s.part.receiving = true → s.part.ctl.mode = .starting →
    s.part.link.join = .running due → due ≤ s.part.now + dt →
    let box := standingBox s.part.geo (s.part.ctl.startPos.getD s.part.here)
    let crowd := ∃ x ∈ s.part.view.peers, x.2.presence = .present ∧
      ∃ e, effectiveBox s.part.ctl.side x.2 = some e ∧ overlaps box e = true
    let cut := s.part.ctl.cutRecorded = true
    let dup := s.part.ctl.dupRecorded = true
    let seen := s.part.motion.faultSeen = true
    ∃ t, exec (.joinWindowEnd dt) s = .next t ∧
      t.part.resv.heldBox = some box ∧ t.part.resv.heldLines = ⟨none, none⟩ ∧
      t.part.link.join = .closed ∧ t.part.link.beacon = true ∧ t.part.link.status = true ∧
      t.part.link.beaconDue = some (s.part.now + dt + us 2000) ∧ t.part.view = s.part.view ∧
      t.part.heights = s.part.heights ∧ t.part.motion.faultSeen = false ∧
      t.part.link.release = s.part.link.release ∧ t.part.resv.waiting = s.part.resv.waiting ∧
      (cut → t.part.ctl.mode = .stopped ∧ t.part.ctl.reason = .linkCutoff) ∧
      (¬ cut → dup → t.part.ctl.mode = .stopped ∧ t.part.ctl.reason = .dupStation) ∧
      (¬ cut → ¬ dup → crowd → ¬ seen → t.part.ctl.mode = .stopped ∧ t.part.ctl.reason = .crowded) ∧
      (¬ cut → ¬ dup → seen → t.part.ctl.mode = .stopped ∧ t.part.ctl.reason = .axisFault) ∧
      (¬ cut → ¬ dup → ¬ crowd → ¬ seen → t.part.ctl.mode = .idle ∧ t.part.ctl.reason = s.part.ctl.reason)

/-! ### The touch list (chapter 04) -/

/-- R67, R70, R196: a LOAD record is bad exactly when its kind code is not 1 to 3, its id is 0, its limits are out of
order, a hint or approach height that is present is too great, a CAPR record names a role, a partner or a tag, or a
CONT or ISO record lacks a role, a tag or a partner that is another head. -/
def Obligations.LoadRecordIsBadWhenItsFieldsAre : Prop :=
  ∀ (own : Station) (r : LoadRecord), r.wf = true →
    (entryOf own r = none ↔
      r.kindCode = 0 ∨ 3 < r.kindCode ∨ r.touchId = 0 ∨ r.high < r.low ∨
      (r.hintPresent = true ∧ (if r.kindCode = 3 then 2 else 5) < r.hint) ∨
      (r.approachPresent = true ∧ 40000 < r.approach) ∨
      (r.kindCode = 3 ∧ (r.roleCode ≠ 0 ∨ r.partner ≠ 0 ∨ r.tag ≠ 0)) ∨
      ((r.kindCode = 1 ∨ r.kindCode = 2) ∧
        (r.roleCode = 0 ∨ 2 < r.roleCode ∨ r.tag = 0 ∨ r.partner = 0 ∨ 15 < r.partner ∨ r.partner = own.val)))

/-- R69 to R72, R174: a LOAD aimed at the station is refused with BUSY in STARTING and CFG_FAULT; else each record in
order is refused as BAD_RECORD, UNREACHABLE, FULL, DUPLICATE_ID or DUPLICATE_TAG, in that order of tests, or joins the
tail of the list as QUEUED; ACCEPTED is handed over and the start conditions are tested. One aimed elsewhere does
nothing. A refusal joins the refusal list's tail while the list holds fewer than 4, and else raises the overflow count,
which stays at 255. -/
def Obligations.LoadJudgesItsRecordsInOrder : Prop :=
  ∀ (s : State) (dt : Time) (target : Station) (records : List LoadRecord),
    (s.part.elapse dt).hears (frameTime (1 + 22 * records.length)) = true →
    let p := (s.part.elapse dt).lineUsed
    let row := exec (.loadReceived dt target records) s
    (target = s.part.own → (s.part.ctl.mode = .starting ∨ s.part.ctl.mode = .cfgFault) →
      row = .next { s with part := (p.reportCommand .load .busy).recheck }) ∧
    (target = s.part.own → s.part.ctl.mode ≠ .starting → s.part.ctl.mode ≠ .cfgFault →
      row = .next { s with part := ((records.foldl Fc4.loadRecord p).reportCommand .load .accepted).testStart.recheck }) ∧
    (target ≠ s.part.own → row = .next { s with part := p.recheck }) ∧
    (∀ (x : Results) (id : Nat) (code : RefusalCode),
      (x.refusals.length < 4 → x.refuse id code = { x with refusals := x.refusals ++ [(id, code)] }) ∧
      (4 ≤ x.refusals.length → x.overflow < 255 → x.refuse id code = { x with overflow := x.overflow + 1 }) ∧
      (4 ≤ x.refusals.length → x.overflow = 255 → x.refuse id code = x)) ∧
    ∀ (q : Fc4) (r : LoadRecord),
      let refused := fun code => { q with results := q.results.refuse r.touchId code }
      let sameTag := fun (e o : Entry) => o.terms.map PairTerms.tag = e.terms.map PairTerms.tag
      (entryOf q.own r = none → q.loadRecord r = refused .badRecord) ∧
      ∀ e, entryOf q.own r = some e →
        (allowed q.geo e.pad = false → q.loadRecord r = refused .unreachable) ∧
        (allowed q.geo e.pad = true → 256 ≤ q.work.list.length → q.loadRecord r = refused .full) ∧
        (allowed q.geo e.pad = true → q.work.list.length < 256 → (∃ o ∈ q.work.list, o.id = e.id) →
          q.loadRecord r = refused .duplicateId) ∧
        (allowed q.geo e.pad = true → q.work.list.length < 256 → (∀ o ∈ q.work.list, o.id ≠ e.id) →
          e.terms.isSome = true → (∃ o ∈ q.work.list, sameTag e o) → q.loadRecord r = refused .duplicateTag) ∧
        (allowed q.geo e.pad = true → q.work.list.length < 256 → (∀ o ∈ q.work.list, o.id ≠ e.id) →
          (e.terms.isSome = true → ∀ o ∈ q.work.list, ¬ sameTag e o) →
          q.loadRecord r = { q with work := { q.work with list := q.work.list ++ [e] } } ∧ e.st = .queued)

/-- R75, R82, R164, R167, R168: the touch in progress ends with its result: its outcome, height, tag, and value and
flags with a verdict alone. With room and no result held back the record joins the queue's tail and the entry leaves the
list; else the entry is FINISHED and holds it, and the queue stays. No touch and no rendezvous is left. -/
def Obligations.EndedTouchGivesItsResult : Prop :=
  ∀ (p : Fc4) (o : TouchOutcome) (e : Entry) (t : TouchRecord), p.activeEntry = some e → p.work.touch = some t →
    let verdict := o = .pass ∨ o = .failLow ∨ o = .failHigh
    let u := p.finishTouch o
    ∃ r : ResultRecord, r.id = e.id ∧ r.kind = e.kind ∧ r.outcome = o ∧ r.height = t.height ∧ r.tag = e.terms.map PairTerms.tag ∧
      (verdict → r.value = t.meas.map (fun m => (m.value, m.range)) ∧ ∀ m, t.meas = some m → r.flags = m.flags) ∧
      (¬ verdict → r.value = none ∧ r.flags = ⟨false, false, false, false⟩) ∧
      u.work.touch = none ∧ u.pair.rdv = none ∧
      (p.results.queue.length < 64 → (∀ x ∈ p.work.list, x.st ≠ .finished) →
        u.results.queue = p.results.queue ++ [⟨r, p.now⟩] ∧ u.work.list = p.work.list.filter (fun x => !decide (x.id = e.id)) ∧
        (p.results.queue.length + 1 ≥ 4 → u.link.result = true)) ∧
      (64 ≤ p.results.queue.length ∨ (∃ x ∈ p.work.list, x.st = .finished) →
        u.results.queue = p.results.queue ∧ u.link = p.link ∧
        u.work.list = p.work.list.map (fun x => if x.id = e.id then { x with st := .finished, held := some r } else x))

/-! ### Motion (chapter 06) -/

/-- R111: with the axes standing, Z raised, no LINK_DOWN and no axis fault, the permitted move is commanded: MOVE to
both drives, the move recorded from the current position, and neither drive has answered yet (log 21). -/
def Obligations.PermittedMoveIsCommanded : Prop :=
  ∀ (s : State) (dt : Time) (m : Permitted),
    s.part.motion.permitted = some m → s.part.motion.axis = .standing → s.part.motion.zState = .raised →
    s.part.link.linkDown = none → s.part.motion.ax.fault = false → s.part.motion.ay.fault = false →
    let p := s.part.elapse dt
    exec (.moveCommand dt) s = .next { s with part := { p with motion := { p.motion with
      axis := .moving, outX := .moveTo m.q.x, outY := .moveTo m.q.y, move := some ⟨p.here, m.q, m.purpose⟩
      permitted := none, ax := { p.motion.ax with answered := false }, ay := { p.motion.ay with answered := false } } } }

/-- R110, R113, R114: a report is taken into its axis's record, with the axis's fault as R113 sets, keeps or clears it.
In STARTING a report that is a fault is recorded, also from a drive whose fault was set (R129). Where the fault becomes
set, a working mode stops with AXIS_FAULT, STOPPED changes its reason to AXIS_FAULT unless that is AXIS_FAULT,
LINK_CUTOFF or DUP_STATION, and CFG_FAULT does nothing. Which reports are irregular, R113 says: a fault bit, a position
other than IN_POSITION while standing, IN_POSITION away from the target in a move, and, on an axis without a fault, a
position outside the allowed interval. During a reset and at a station strapped 0 a report is only taken (log 31); that
the drive has answered its last MOVE is the model's own mark (log 21), and that the reason is or has been AXIS_FAULT is
kept with the stop (log 23). -/
def Obligations.AxisReportsAreJudged : Prop :=
  ∀ (s : State) (dt : Time) (a : Axis) (r : AxisReport),
    let p := s.part.elapse dt
    let old := p.motion.axisRec a
    let fault := p.motion.irregular a r || (old.fault && !r.inPosition)
    let rec' : AxisRec := ⟨r.pos, r.inPosition, fault, true⟩
    let q : Fc4 := { p with motion :=
      match a with
      | .x => { p.motion with ax := rec' }
      | .y => { p.motion with ay := rec' } }
    (p.motion.irregular a r = true ↔
      r.fault = true ∨ (p.motion.axis = .standing ∧ r.inPosition = false) ∨
      (∃ m, p.motion.axis = .moving ∧ p.motion.move = some m ∧ r.inPosition = true ∧ r.pos ≠ along a m.q) ∨
      (old.fault = false ∧
        ((∃ m, p.motion.axis = .moving ∧ p.motion.move = some m ∧ between (along a m.p) (along a m.q) r.pos = false) ∨
         (∃ m f, p.motion.axis = .stopping ∧ p.motion.move = some m ∧ p.motion.stopFrom = some f ∧
            between (along a f) (along a m.q) r.pos = false) ∨
         (p.motion.axis = .standing ∧ r.pos ≠ old.pos)))) ∧
    let tells := p.motion.irregular a r = true ∧ (old.fault = false ∨ s.part.ctl.mode = .starting)
    (s.part.receiving = false ∨ ¬ tells → exec (.axisReport dt a r) s = .next { s with part := q }) ∧
    (s.part.receiving = true → tells →
      (s.part.ctl.mode = .starting → exec (.axisReport dt a r) s =
        .next { s with part := { q with motion := { q.motion with faultSeen := true } } }) ∧
      (s.part.ctl.mode = .cfgFault → exec (.axisReport dt a r) s = .next { s with part := q }) ∧
      (working s.part.ctl.mode = true → exec (.axisReport dt a r) s = .next { s with part := q.enterStopped .axisFault }) ∧
      (s.part.ctl.mode = .stopped → s.part.ctl.reason ∈ [.axisFault, .linkCutoff, .dupStation] →
        exec (.axisReport dt a r) s = .next { s with part := q }) ∧
      (s.part.ctl.mode = .stopped → s.part.ctl.reason ∉ [.axisFault, .linkCutoff, .dupStation] →
        exec (.axisReport dt a r) s =
          .next { s with part := { q with ctl := { q.ctl with reason := .axisFault, axisFaulted := true } } }))

/-- R39, R42 to R44, R49, R58 to R60, R79, R101, R112, R125: a move ends when both axes have reported IN_POSITION at
their targets since MOVE was sent (log 21). A yield's arrival answers the asks (logs 41, 53). A PARK's end and a touch's
move make a RELEASE due; a touch goes on to its descent. Where a yield is due, an arrival at the haven answers the asks,
and elsewhere the yield begins once the touch has ended, without a result unless its rendezvous has set an outcome; a
touch whose outcome is set ends (log 17). A request for a move is permitted at once where its swept box lies in the box
the station will hold once a pending RELEASE has completed (log 24), and else claims that box with the lines it will
then hold; a request of the same requester takes over the blocked time of the claim it replaces (its re-check timer
starts anew: log 13). -/
def Obligations.MoveEndGoesOn : Prop :=
  (∀ (s : State) (dt : Time) (m : Move),
    s.part.motion.axis = .moving → s.part.motion.move = some m →
    axisArrived s.part.motion.ax m.q.x = true → axisArrived s.part.motion.ay m.q.y = true →
    let p := s.part.elapse dt
    let q : Fc4 := { p with motion := { p.motion with axis := .standing, move := none } }
    let atHaven := p.resv.yieldDue = true ∧ p.here = p.geo.haven
    let row := exec (.moveEnd dt) s
    (m.purpose = .yield → row = .next { s with part := (q.answerAsks .arrival).testStart }) ∧
    (m.purpose = .park → atHaven → row = .next { s with part :=
      (({ q with motion := { q.motion with park := false } }).answerAsks .arrival).testStart }) ∧
    (m.purpose = .park → ¬ atHaven → row = .next { s with part :=
      ({ q with motion := { q.motion with park := false } }).releaseDue .moveEnd }) ∧
    (m.purpose = .touch → atHaven → row = .next { s with part := (q.yieldEndsTouch.answerAsks .arrival).pauseCheck.testStart }) ∧
    (m.purpose = .touch → ¬ atHaven → ∀ o, p.pair.rdv.bind Rendezvous.outcome = some o →
      row = .next { s with part := (q.releaseDue .moveEnd).endTouch o }) ∧
    (m.purpose = .touch → ¬ atHaven → p.pair.rdv.bind Rendezvous.outcome = none → ∀ e, p.activeEntry = some e →
      (p.resv.yieldDue = true → row = .next { s with part := (q.releaseDue .moveEnd).yieldEndsTouch.beginYield }) ∧
      (p.resv.yieldDue = false → row = .next { s with part := (q.releaseDue .moveEnd).enterDescent e }))) ∧
  (∀ q : Fc4,
    (∀ o, q.pair.rdv.bind Rendezvous.outcome = some o → q.yieldEndsTouch = q.finishTouch o) ∧
    (q.pair.rdv.bind Rendezvous.outcome = none → q.yieldEndsTouch = q.requeueTouch)) ∧
  ∀ (q : Fc4) (who : Requester) (target : Pos),
    let g := q.geo
    let box : Box := ⟨min q.here.x target.x - g.fx - g.clearance, max q.here.x target.x + g.fx + g.clearance,
      min q.here.y target.y - g.fy - g.clearance, max q.here.y target.y + g.fy + g.clearance⟩
    let since := if q.resv.claim.map Claim.who = some who then q.resv.blockedSince else none
    let permits := ∃ b, q.comingBox = some b ∧ inside box b = true
    (permits → q.requestMove who target = q.withdrawClaim.permitMove who target) ∧
    (¬ permits → q.requestMove who target = ({ q.withdrawClaim with resv := { q.withdrawClaim.resv with
      claim := some ⟨.move, box, q.comingLines, 0, who, target⟩, blockedSince := since, recheckDue := none } }).examine) ∧
    (∀ cause f, q.resv.waiting = some cause → q.releaseContents cause = some f →
      q.comingBox = some f.box ∧ q.comingLines = f.lines) ∧
    ((∀ cause, q.resv.waiting = some cause → q.releaseContents cause = none) →
      (∀ f, q.link.release = some f → q.comingBox = some f.box ∧ q.comingLines = f.lines) ∧
      (q.link.release = none → q.comingBox = q.resv.heldBox ∧ q.comingLines = q.resv.heldLines)) ∧
    (let given := fun purpose : Purpose => { q with motion := { q.motion with permitted := some ⟨target, purpose⟩ } };
      (who = .park → q.permitMove who target = given .park) ∧ (who = .yield → q.permitMove who target = given .yield) ∧
      (who = .touchList → q.permitMove who target = { given .touch with
        work := { q.work with touch := q.work.touch.map (fun t : TouchRecord => { t with stage := .move }) } }))

/-- R49, R50, R52, R59, R60, R63, R64, R115: after a stop, both axes stopped end the move: it is cleared, the axes
stand, and the stop's RELEASE falls due. R80, R138: entering DESCENT hands the pad over with the entry's approach
height, or else the table's prediction. What a RELEASE states by the moment it falls due: the box the carriage needs
where it stands, or the box held; the lines held, none, or those from before a stray grant; the answer and AT_HAVEN.
None is filled at the end of a move or a stop that changes nothing. It waits while an own CLAIM is on the line, and is
filled as things stand when that frame has ended; of two that wait behind one CLAIM the later alone is filled, the
model's choice (log 50). -/
def Obligations.CarriageStandsAndDescentIsHanded : Prop :=
  (∀ (s : State) (dt : Time), s.part.ctl.mode = .stopped → s.part.motion.axis = .stopping →
    (s.part.motion.ax.inPosition = true ∨ s.part.motion.ax.fault = true) →
    (s.part.motion.ay.inPosition = true ∨ s.part.motion.ay.fault = true) →
    let p := s.part.elapse dt
    exec (.carriageStopped dt) s = .next { s with part :=
      ({ p with motion := { p.motion with axis := .standing, move := none, stopFrom := none } }).releaseDue .carriageStands }) ∧
  (∀ (p : Fc4) (e : Entry), p.enterDescent e = { p with
    work := { p.work with touch := p.work.touch.map (fun t : TouchRecord => { t with stage := .descent }) }
    motion := { p.motion with handed := some (e.pad, e.approach.getD (predict p.heights p.geo.nominal e.pad)) } }) ∧
  ∀ q : Fc4,
    let atHaven := decide (q.motion.axis = .standing ∧ q.here = q.geo.haven)
    let held := q.resv.heldBox.getD q.standing
    let none' : LineRoles := ⟨none, none⟩
    let filled := fun (u : Fc4) (cause : ReleaseCause) =>
      match q.releaseContents cause with
      | some f => { u with link := u.link.fillRelease f }
      | none => u
    (∀ answer, q.releaseContents (.arrival answer) = some ⟨q.standing, q.resv.heldLines, answer, atHaven⟩ ∧
      q.releaseContents (.atHaven answer) = some ⟨held, q.resv.heldLines, answer, atHaven⟩ ∧
      q.releaseContents (.yieldGivenUp answer) = some ⟨q.standing, q.resv.heldLines, answer, atHaven⟩) ∧
    (q.resv.heldBox = some q.standing → q.releaseContents .moveEnd = none) ∧
    (q.resv.heldBox ≠ some q.standing → q.releaseContents .moveEnd = some ⟨q.standing, q.resv.heldLines, 0, atHaven⟩) ∧
    q.releaseContents .linesDropped = some ⟨held, none', 0, atHaven⟩ ∧
    (∀ lines, q.releaseContents (.strayGrant lines) = some ⟨q.standing, lines, 0, atHaven⟩) ∧
    q.releaseContents .axisFaultCleared = some ⟨q.standing, none', 0, atHaven⟩ ∧
    (q.ctl.axisFaulted = true → q.resv.heldLines = none' → q.releaseContents .carriageStands = none) ∧
    (q.ctl.axisFaulted = true → q.resv.heldLines ≠ none' → q.releaseContents .carriageStands = some ⟨held, none', 0, atHaven⟩) ∧
    (q.ctl.axisFaulted = false → q.resv.heldBox = some q.standing → q.resv.heldLines = none' →
      q.releaseContents .carriageStands = none) ∧
    (q.ctl.axisFaulted = false → ¬ (q.resv.heldBox = some q.standing ∧ q.resv.heldLines = none') →
      q.releaseContents .carriageStands = some ⟨q.standing, none', 0, atHaven⟩) ∧
    (∀ cause,
      ((∃ f c, q.link.onLine = some f ∧ f.content = .claim c) →
        q.releaseDue cause = { q with resv := { q.resv with waiting := some cause } }) ∧
      ((∀ f c, q.link.onLine = some f → f.content ≠ .claim c) → q.releaseDue cause = filled q cause) ∧
      (q.resv.waiting = some cause → q.flushRelease = filled { q with resv := { q.resv with waiting := none } } cause)) ∧
    (q.resv.waiting = none → q.flushRelease = q) ∧
    ∀ f, (q.link.fillRelease f).release = some f

/-- R117, R118, R120: a descent begins at its pad with the axes standing, Z raised, the TOUCH slot empty, no LINK_DOWN
and no axis fault: fast to the predicted height less the margin, and where that is 0 at once in SEARCH; the fast target
begins the search. In SEARCH above the limit each sample counts asserted ones in a row and goes 1 µm deeper; in LANDED
each counts deasserted ones in a row; the next comes 20 µs later. (From the third on the count waits: log 10.) -/
def Obligations.DescentSearchesWithTheContactFilter : Prop :=
  ∀ (s : State) (dt : Time),
    let p := s.part.elapse dt
    (∀ pad h, s.part.motion.handed = some (pad, h) → s.part.motion.axis = .standing → s.part.here = pad →
      s.part.motion.zState = .raised → s.part.link.touch = none → s.part.link.linkDown = none →
      s.part.motion.ax.fault = false → s.part.motion.ay.fault = false →
      let m := { p.motion with
        descent := some ⟨pad, h, h - p.geo.margin, min 40000 (h + p.geo.depth)⟩, handed := none, filter := 0 }
      (p.geo.margin < h → exec (.descentBegin dt) s = .next { s with part := { p with motion := { m with zState := .fastDescent } } }) ∧
      (h ≤ p.geo.margin → exec (.descentBegin dt) s = .next { s with part := { p with motion :=
        { m with zState := .search, z := 0, nextSample := p.now + us 20 } } })) ∧
    (∀ d, s.part.motion.zState = .fastDescent → s.part.motion.descent = some d →
      exec (.fastTargetReached dt) s = .next { s with part := { p with motion :=
        { p.motion with zState := .search, z := d.fastTarget, nextSample := p.now + us 20 } } }) ∧
    (∀ asserted d, s.part.motion.zState = .search → s.part.motion.descent = some d → s.part.motion.z < d.limit →
      s.part.motion.filter < 3 → s.part.motion.nextSample ≤ p.now →
      exec (.contactInputSample dt asserted) s = .next { s with part := { p with motion := { p.motion with
        filter := if asserted then p.motion.filter + 1 else 0, z := p.motion.z + 1, nextSample := p.now + us 20 } } }) ∧
    (∀ asserted, s.part.motion.zState = .landed → s.part.motion.lostReported = false →
      s.part.motion.filter < 3 → s.part.motion.nextSample ≤ p.now →
      exec (.contactInputSample dt asserted) s = .next { s with part := { p with motion := { p.motion with
        filter := if asserted then 0 else p.motion.filter + 1, nextSample := p.now + us 20 } } })

/-- R81, R92, R118, R121, R133, R141, R143, R151: three asserted samples in a row land the probe: Z stays, TOUCH is
filled with position, height, tag and role, the height is a sample of the table and stands in the touch record. A CAPR
touch starts its measurement where the unit is IDLE, and waits for that (log 48); a paired one goes to LANDED_WAIT for
1,500 ms and looks for its partner, or lifts where its rendezvous has ended. (The touch record's stage MEASURE for a
paired touch: log 19; that the count of asserted samples waits at 3 for this row: log 10.) A measurement begins with
what it latches and an emptied record, at the hint's range or the kind's start range, with ZEROING, or for CAPR with the
local input on and the first timing. -/
def Obligations.TouchdownLandsTheProbe : Prop :=
  (∀ (s : State) (dt : Time) (e : Entry),
    s.part.activeEntry = some e → s.part.motion.zState = .search → s.part.motion.filter = 3 →
    let p := s.part.elapse dt
    let fill : TouchFill := ⟨p.here, p.motion.z, (e.terms.map PairTerms.tag).getD 0, e.terms.map PairTerms.role⟩
    let u : Fc4 := { p with
      motion := { p.motion with zState := .landed, filter := 0, lostReported := false, nextSample := p.now + us 20 }
      link := p.link.fillTouch fill
      heights := takeSample p.heights p.here p.motion.z
      work := { p.work with touch := p.work.touch.map (fun t : TouchRecord =>
        { t with height := some p.motion.z, stage := .measure }) } }
    u.link.touch = some fill ∧
    (p.pair.rdv = none → p.meas.state = .idle → exec (.touchdown dt) s = .next { s with part :=
      { u with meas := u.meas.begin .touchList ⟨e.kind, e.low, e.high, e.hint⟩ p.now } }) ∧
    (p.pair.rdv = none → p.meas.state ≠ .idle → exec (.touchdown dt) s = .next { s with part := u }) ∧
    (∀ r, p.pair.rdv = some r → r.state = .heading → exec (.touchdown dt) s = .next { s with part :=
      ({ u with pair := { u.pair with
        rdv := some { r with state := .landedWait, timer := some (p.now + ms 1500) } } }).meet }) ∧
    (∀ r, p.pair.rdv = some r → r.state ≠ .heading → exec (.touchdown dt) s = .next { s with part := u.goLift })) ∧
  ∀ (m : Meas) (owner : MeasOwner) (l : Latched) (now : Time),
    let fresh : Meas := { m with
      owner := some owner, latched := some l, flags := ⟨false, false, false, false⟩, tried := [], saturated := false
      computed := none, sum := 0, taken := 0, zero := none, attempt := 0, sampleA := none, sampleB := none
      counted := false, breakAtEnd := false }
    let start := l.hint.getD (if l.kind = .iso then 5 else 0)
    (l.kind ≠ .capr → m.begin owner l now = { fresh with
      state := .zeroing, range := some start, sampleDue := now + us 100 }) ∧
    (l.kind = .capr → m.begin owner l now = { fresh with
      localIn := true, state := .timing, range := some start, stimulus := some start, tried := [start]
      discharge := none, dischargeOn := false, timingFrom := now })

/-- R80, R81, R91, R105, R116, R119, R120, R123, R161: a search that reaches its limit without contact gives NO_CONTACT;
three deasserted samples while landed give CONTACT_LOST, once, and so in the final discharge (log 20); a coil current
above the level latches the overload and gives OVERLOAD, but after the sample at the search limit, whose NO_CONTACT
stands. A failed search keeps an outcome already set, and lifts; with a paired touch it fills ABANDON for the partner. A
failure while landed sets the outcome of a solo touch in MEASURE and aborts its measurement with a discharge of 1,000 µs
(a final discharge under way runs on for it), or lifts at once where none is under way; a paired one ends its
rendezvous; where an outcome is set or the stage is another it does nothing more. -/
def Obligations.FailedContactEndsTheTouch : Prop :=
  (∀ (s : State) (dt : Time),
    let p := s.part.elapse dt
    (∀ d, s.part.motion.zState = .search → s.part.motion.descent = some d → s.part.motion.filter < 3 →
      (s.part.motion.z = d.limit → exec (.noContact dt) s = .next { s with part := p.failSearch .noContact }) ∧
      ∀ current, s.part.motion.latch = false → s.part.geo.overloadLevel < current →
        let q : Fc4 := { p with motion := { p.motion with latch := true } }
        (s.part.motion.z ≠ d.limit → exec (.overloadLatch dt current) s = .next { s with part := q.failSearch .overload }) ∧
        (s.part.motion.z = d.limit → exec (.overloadLatch dt current) s = .next { s with part := q })) ∧
    (s.part.motion.zState = .landed →
      (s.part.motion.filter = 3 → s.part.motion.lostReported = false →
        exec (.contactLost dt) s =
          .next { s with part := ({ p with motion := { p.motion with lostReported := true } }).failLanded .contactLost }) ∧
      ∀ current, s.part.motion.latch = false → s.part.geo.overloadLevel < current →
        exec (.overloadLatch dt current) s =
          .next { s with part := ({ p with motion := { p.motion with latch := true } }).failLanded .overload })) ∧
  ∀ (q : Fc4) (o : TouchOutcome) (t : TouchRecord), q.work.touch = some t →
    let low := q.motion.zState = .search ∨ q.motion.zState = .landed
    let lifted := { q.motion with zState := .lifting, descent := none, handed := none, liftWanted := false }
    let ended := { t with outcome := some (t.outcome.getD o), stage := .lift }
    (low → t.outcome.isSome = true ∨ q.pair.rdv = none →
      q.failSearch o = { q with work := { q.work with touch := some ended }, motion := lifted }) ∧
    (∀ r, low → t.outcome = none → q.pair.rdv = some r → r.quiet = false → q.failSearch o = { q with
      work := { q.work with touch := some ended }, motion := lifted
      link := q.link.fillPair ⟨.abandon, some o, r.tag, r.partner⟩
      pair := { q.pair with rdv := some { r with
        outcome := some o, state := .finishing, timer := none, ending := some .abandon, endingDone := false } } }) ∧
    (q.pair.rdv.isSome = true → q.failLanded o = q.endRendezvous o false) ∧
    (q.pair.rdv = none →
      let noFlags : MeasFlags := ⟨false, false, false, false⟩
      let aborting : Meas := { q.meas with
        stimulus := none, discharge := some ⟨.abort, q.now + us 1000⟩, flags := noFlags, sum := 0, taken := 0 }
      let set := { q.work with touch := some { t with outcome := some o } }
      (t.stage ≠ .measure ∨ t.outcome.isSome = true → q.failLanded o = q) ∧
      (t.stage = .measure → t.outcome = none →
        (low → q.meas.state = .idle → q.failLanded o = { q with
          work := { q.work with touch := some ended }, motion := lifted
          meas := { q.meas with stimulus := none, forceSw := none, retSw := none, senseSw := none, localIn := false } }) ∧
        (q.meas.state ∈ [.zeroing, .settling, .ranging, .integrating, .timing] →
          q.failLanded o = { q with work := set, meas := { aborting with
            state := .discharging, dischargeOn := true, zero := none, sampleA := none, sampleB := none } }) ∧
        (∀ due, q.meas.state = .discharging → q.meas.discharge = some ⟨.between, due⟩ →
          q.failLanded o = { q with work := set, meas := aborting }) ∧
        (∀ due, q.meas.state = .discharging → q.meas.discharge = some ⟨.final, due⟩ →
          q.failLanded o = { q with work := set, meas := { q.meas with stimulus := none, computed := none, flags := noFlags } })))

/-- R58, R82, R83, R100, R122, R124, R125, R129, R163, R188: Z reaches 0: it is raised, the filter is empty, and the
overload latch stays under HOLD alone. A solo touch in LIFT ends with its outcome, a paired one closes where it can; a
due yield, and with no touch a PARK, go on; a yield due before Z was raised begins though a paired touch is still
FINISHING (log 14). While the reset discharge runs the reset lift has not begun, and the row does nothing. After the end
of a touch comes STOPPED(OVERLOAD) where the latch stands under HOLD in RUNNING or PAUSING; else PAUSING becomes PAUSED,
and a yield whose point has come begins, or the start conditions are tested. A PARK goes on with Z raised, the axes
standing and no claim pending or move permitted: it is complete at the haven, and else asks for the move there. -/
def Obligations.LiftEndRaisesZ : Prop :=
  (∀ (s : State) (dt : Time), (∃ due, s.part.meas.state = .discharging ∧ s.part.meas.discharge = some ⟨.reset, due⟩) →
    exec (.liftEnd dt) s = .next { s with part := s.part.elapse dt }) ∧
  (∀ q : Fc4,
    let overloaded := q.motion.latch = true ∧ q.geo.hold = true ∧ q.ctl.mode ∈ [.running, .pausing]
    let u : Fc4 := if q.ctl.mode = .pausing ∧ q.work.touch = none then { q with ctl := { q.ctl with mode := .paused } } else q
    let waits := q.motion.park = true ∧ q.motion.zState = .raised ∧ q.resv.claim = none ∧ q.motion.permitted = none ∧
      q.motion.axis = .standing
    (∀ o, q.endTouch o = (q.finishTouch o).afterTouch) ∧
    (overloaded → q.afterTouch = q.enterStopped .overload) ∧
    (¬ overloaded → u.yieldReady = true → q.afterTouch = u.beginYield) ∧
    (¬ overloaded → u.yieldReady = false → q.afterTouch = u.testStart) ∧
    (¬ waits → q.parkProceeds = q) ∧
    (waits → q.here = q.geo.haven → q.parkProceeds = { q with motion := { q.motion with park := false } }) ∧
    (waits → q.here ≠ q.geo.haven → q.parkProceeds = q.requestMove .park q.geo.haven)) ∧
  ∀ (s : State) (dt : Time), s.part.motion.zState = .lifting → s.part.meas.purposeIs .reset = false →
    s.part.ctl.resetHold = none →
    let p := s.part.elapse dt
    let q : Fc4 := { p with motion := { p.motion with
      zState := .raised, z := 0, filter := 0, latch := p.motion.latch && p.geo.hold } }
    let row := exec (.liftEnd dt) s
    (p.work.touch = none → row = .next { s with part := q.yieldIfReady.parkProceeds }) ∧
    (∀ t o, p.work.touch = some t → p.pair.rdv = none → t.stage = .lift → t.outcome = some o →
      row = .next { s with part := q.endTouch o }) ∧
    (∀ t, p.work.touch = some t → p.pair.rdv.isSome = true → t.stage = .lift →
      row = .next { s with part := q.closeCheck.yieldIfReady }) ∧
    (∀ t, p.work.touch = some t → t.stage ≠ .lift → row = .next { s with part := q.yieldIfReady })

/-- R91, R101, R102: the rendezvous timer's expiry ends a landed rendezvous that is not measuring: outcome
PARTNER_TIMEOUT, an ABANDON with that reason for the partner, timer off, connections broken, a LINE claim withdrawn, and
the touch lifts, here with the measurement record IDLE. Any early ending sets the outcome, unless one is set. HEADING:
in stage CLAIM, or with the descent not begun, the touch ends at once, without a frame; in stage MOVE nothing more
happens until the move ends; with the descent under way FINISHING follows, with an ABANDON unless a frame of the partner
is the cause, and the descent runs on. MEASURING: the measurement is aborted first, and all
else waits for the abort's end, the model's choice (log 15). Landed otherwise: FINISHING, the
ABANDON, the LINE claim withdrawn, connections broken, and the lift. FINISHING: nothing. -/
def Obligations.RendezvousTimeoutAbandonsAndLifts : Prop :=
  (∀ (s : State) (dt due : Time) (r : Rendezvous) (t : TouchRecord),
    s.part.pair.rdv = some r → s.part.work.touch = some t → r.timer = some due → due ≤ s.part.now + dt →
    exec (.rendezvousTimeout dt) s = .next { s with part := (s.part.elapse dt).endRendezvous .partnerTimeout false } ∧
    (r.state ∈ [.landedWait, .linking, .joinedWait, .holding] → r.outcome = none → t.stage = .measure →
      s.part.meas.state = .idle → s.part.motion.zState = .landed →
      ∃ u r', exec (.rendezvousTimeout dt) s = .next u ∧ u.part.pair.rdv = some r' ∧
        r'.state = .finishing ∧ r'.outcome = some .partnerTimeout ∧ r'.ending = some .abandon ∧ r'.timer = none ∧
        r'.connected = false ∧ r'.tag = r.tag ∧ r'.partner = r.partner ∧ r'.role = r.role ∧
        u.part.link.pair = some ⟨.abandon, some .partnerTimeout, r.tag, r.partner⟩ ∧
        u.part.work.touch = some { t with outcome := some .partnerTimeout, stage := .lift } ∧
        u.part.meas.forceSw = none ∧ u.part.meas.retSw = none ∧ u.part.meas.senseSw = none ∧
        u.part.motion.zState = .lifting ∧ u.part.work.list = s.part.work.list ∧ u.part.view = s.part.view ∧
        (∀ c, s.part.resv.claim = some c → c.kind = .line → u.part.resv.claim = none))) ∧
  ∀ (q : Fc4) (o : TouchOutcome) (quiet : Bool) (r : Rendezvous) (t : TouchRecord),
    q.pair.rdv = some r → q.work.touch = some t →
    let ended := q.endRendezvous o quiet
    (r.outcome.isSome = true ∨ r.state = .finishing → ended = q) ∧
    (r.outcome = none →
      let set : Fc4 := { q with
        work := { q.work with touch := some { t with outcome := some o } }
        pair := { q.pair with rdv := some { r with outcome := some o, quiet } } }
      let ending := { r with outcome := some o, quiet, state := .finishing, timer := none }
      let finishing : Fc4 :=
        if quiet then { set with pair := { q.pair with rdv := some ending } }
        else { set with
          pair := { q.pair with rdv := some { ending with ending := some .abandon, endingDone := false } }
          link := q.link.fillPair ⟨.abandon, some o, r.tag, r.partner⟩ }
      (r.state = .heading →
        (t.stage = .claim → ended = ({ set.withdrawClaim with motion := { q.motion with handed := none } }).endTouch o) ∧
        (t.stage = .descent → q.motion.handed.isSome = true →
          ended = ({ set with motion := { q.motion with handed := none } }).endTouch o) ∧
        (t.stage = .descent → q.motion.handed = none → ended = finishing) ∧
        (t.stage = .move → ended = set)) ∧
      (r.state = .measuring → ended = { set with meas := q.meas.abort q.now }) ∧
      (r.state ∈ [.landedWait, .linking, .joinedWait, .holding] → t.stage = .measure → q.meas.state = .idle →
        q.motion.zState = .landed →
        let freed := if ∃ c, q.resv.claim = some c ∧ c.kind = .line then finishing.withdrawClaim else finishing
        ended = ({ freed with
          meas := { q.meas with forceSw := none, retSw := none, senseSw := none }
          pair := { q.pair with rdv := finishing.pair.rdv.map (fun x : Rendezvous => { x with connected := false }) }
          work := { q.work with touch := some { t with outcome := some o, stage := .lift } }
          motion := { q.motion with zState := .lifting, descent := none, handed := none, liftWanted := false } }).dropLinesIfDone))

/-- R51, R93 to R95, R99, R104, R158, R160: in LANDED_WAIT a partner whose record shows our tag and landed, and is not
SILENT, is met. A note of our tag with our role is a MISMATCH; a note of our tag with the other role goes to LINKING
with the roles checked; no note, or one of another tag, goes there unchecked (so does one of our tag that names no role:
log 36). There a SOURCE asks for lines, on the box held; a SENSE that is landed and sees two lines of its partner's
connects to the return line, sends JOINED and goes to HOLDING. A connected SENSE whose return line its partner no longer
lists disconnects, and in HOLDING has lost its partner. A partner whose record is absent, SILENT, STOPPED or CFG_FAULT
is lost: in stage CLAIM the entry is deferred where it may be, and else the rendezvous ends with PARTNER_LOST, as in
every later stage. (A claim that the next entry's request at that instant does not replace is withdrawn: log 40. The
phase of the re-check timer: log 13.) -/
def Obligations.PartnersMeetOnTheirRecords : Prop :=
  ∀ (p : Fc4) (r : Rendezvous), p.pair.rdv = some r →
    let with' := fun x : Rendezvous => { p with pair := { p.pair with rdv := some x } }
    let gone := ∀ x, p.record r.partner = some x → x.presence = .silent ∨ x.mode = some .stopped ∨ x.mode = some .cfgFault
    (p.record r.partner = none → p.meet = p ∧ p.senseLines = p ∧ p.senseWatch = p) ∧
    (∀ x, p.record r.partner = some x →
      let met := x.frontTag = r.tag ∧ x.landed = true ∧ x.presence ≠ .silent
      let goOn := fun checked : Bool =>
        let u := with' { r with state := .linking, roleChecked := checked }
        (r.role = .source → p.meet = u.requestLines r.tag) ∧ (r.role = .sense → p.meet = u.senseLines)
      (r.state ≠ .landedWait ∨ ¬ met → p.meet = p) ∧
      (r.state = .landedWait → met →
        (p.note r.partner = none → goOn false) ∧
        (∀ n, p.note r.partner = some n →
          (n.tag ≠ r.tag ∨ n.role = none → goOn false) ∧
          (n.tag = r.tag → n.role = some r.role → p.meet = p.endRendezvous .mismatch false) ∧
          (n.tag = r.tag → n.role.isSome = true → n.role ≠ some r.role → goOn true))) ∧
      (r.state ≠ .linking ∨ r.role = .source ∨ x.lines.force = none ∨ x.lines.ret = none → p.senseLines = p) ∧
      (r.state = .linking → r.role = .sense → ∀ a b, x.lines = ⟨some a, some b⟩ →
        (p.motion.zState = .landed → p.senseLines = { p with
          meas := { p.meas with senseSw := some b }
          link := p.link.fillPair ⟨.joined, none, r.tag, r.partner⟩
          pair := { p.pair with rdv := some { r with retLine := some b, connected := true, state := .holding } } }) ∧
        (p.motion.zState ≠ .landed → p.senseLines = with' { r with retLine := some b })) ∧
      (r.role = .source ∨ r.connected = false → p.senseWatch = p) ∧
      (∀ l, r.role = .sense → r.connected = true → r.retLine = some l →
        let cut : Fc4 := { p with
          meas := { p.meas with senseSw := none }, pair := { p.pair with rdv := some { r with connected := false } } }
        (x.lines.force = some l ∨ x.lines.ret = some l → p.senseWatch = p) ∧
        (x.lines.force ≠ some l → x.lines.ret ≠ some l →
          (r.state = .holding → p.senseWatch = cut.endRendezvous .partnerLost false) ∧
          (r.state ≠ .holding → p.senseWatch = cut)))) ∧
    (¬ gone ∨ r.state = .finishing ∨ r.outcome.isSome = true → p.checkLost = p) ∧
    (gone → r.state ≠ .finishing → r.outcome = none → ∀ t, p.work.touch = some t →
      (t.stage ≠ .claim ∨ p.activeEntry = none → p.checkLost = p.endRendezvous .partnerLost false) ∧
      (∀ e, t.stage = .claim → p.activeEntry = some e →
        (p.deferAllowed e = false → p.checkLost = p.endRendezvous .partnerLost false) ∧
        (p.deferAllowed e = true →
          let next := (p.deferEntry e).afterTouch
          let carried := next.work.touch.map TouchRecord.stage = some .claim ∨ next.resv.claim.map Claim.who ≠ some .touchList
          (carried → p.checkLost = next) ∧ (¬ carried → p.checkLost = next.withdrawClaim)))) ∧
    p.pairRecheck = p.checkLost.senseWatch.meet.senseLines ∧
    (p.resv.claim = none → ∀ tag, p.requestLines tag = ({ p with resv := { p.resv with
      claim := some ⟨.line, p.heldOrStanding, ⟨none, none⟩, tag, .pairUnit, p.here⟩
      blockedSince := none, recheckDue := none } }).examine)

/-- R100, R82: a rendezvous in FINISHING whose outcome is set closes, and its touch ends with that outcome, exactly when
the touch is in LIFT with Z raised, the connections are broken, the ending frame, if any, has completed, the PAIR slot
is empty with no PAIR frame on the line, no line is held and no LINE claim is pending or on the line (its pair tag is
not 0, as a MOVE claim's is; log 16). -/
def Obligations.RendezvousClosesWhenAllIsDone : Prop :=
  ∀ (p : Fc4) (r : Rendezvous) (o : TouchOutcome), p.pair.rdv = some r → r.outcome = some o →
    let done := r.state = .finishing ∧ (∃ t, p.work.touch = some t ∧ t.stage = .lift) ∧ p.motion.zState = .raised ∧
      r.connected = false ∧ (r.ending = none ∨ r.endingDone = true) ∧ p.link.pair = none ∧
      (∀ f, p.link.onLine = some f → f.content.kind ≠ .pair ∧ ∀ c, f.content = .claim c → c.tag = 0) ∧
      p.resv.heldLines = ⟨none, none⟩ ∧ (∀ c, p.resv.claim = some c → c.kind ≠ .line)
    (done → p.closeCheck = p.endTouch o) ∧ (¬ done → p.closeCheck = p)

/-! ### The height table (chapter 07) -/

/-- R132, R137: a sample makes an empty cell's height, is blended into a filled one by its count with halves up, and
leaves every other cell; a filled cell predicts its height, an empty one the mean of its filled neighbours' heights with
halves up, and a pad with no filled cell at or beside it has the nominal height predicted. -/
def Obligations.SamplesBlendAndPredict : Prop :=
  ∀ (t : List (Nat × HeightCell)) (pad : Pos) (h nominal : Nat), tableSorted t = true →
    let u := takeSample t pad h
    (∀ k, k ≠ cellOf pad → tableGet k u = tableGet k t) ∧
    (tableGet (cellOf pad) t = none → tableGet (cellOf pad) u = some ⟨1, h⟩) ∧
    (∀ c, tableGet (cellOf pad) t = some c → 1 ≤ c.count → c.count ≤ 7 →
      ∃ c', tableGet (cellOf pad) u = some c' ∧ c'.count = min 7 (c.count + 1) ∧
        2 * (c.count * c.height + h) < (c.count + 1) * (2 * c'.height + 1) ∧
        (c.count + 1) * (2 * c'.height) ≤ 2 * (c.count * c.height + h) + (c.count + 1)) ∧
    (∀ c, tableGet (cellOf pad) t = some c → predict t nominal pad = c.height) ∧
    (tableGet (cellOf pad) t = none →
      let beside := fun k => k % 32 ≤ pad.x / 32768 + 1 ∧ pad.x / 32768 ≤ k % 32 + 1 ∧
        k / 32 ≤ pad.y / 32768 + 1 ∧ pad.y / 32768 ≤ k / 32 + 1 ∧ k ≠ cellOf pad
      let hs := (t.filter (fun c => decide (beside c.1))).map (fun c => c.2.height)
      (hs ≠ [] → predict t nominal pad = (hs.sum + hs.length / 2) / hs.length) ∧ (hs = [] → predict t nominal pad = nominal))

/-! ### Measurement (chapter 08) -/

/-- R144 to R146, R149, R150, R156, R157: a sample in ZEROING or INTEGRATING joins the sum. The k-th of ZEROING gives
the zero reading, their average, and the start range is settled with its stimulus on (older settle samples leave the
record: log 43); the k-th of INTEGRATING gives the value and its verdict, and the final discharge of 1,000 µs begins;
before the k-th the next comes 100 µs later. -/
def Obligations.ConverterSamplesAreSummed : Prop :=
  ∀ (s : State) (dt : Time) (code : Code) (k r : Nat) (l : Latched),
    s.part.meas.sampleDue ≤ s.part.now + dt → s.part.meas.k = some k → s.part.meas.range = some r →
    s.part.meas.latched = some l →
    let p := s.part.elapse dt
    let m := s.part.meas
    let sum := m.sum + code.toNat
    let row := exec (.converterSample dt code) s
    let sat := m.saturated || decide (code.toNat = 65535)
    (m.state = .zeroing → m.taken + 1 < k → row = .next { s with part := { p with meas :=
      { m with sum, taken := m.taken + 1, sampleDue := p.now + us 100 } } }) ∧
    (m.state = .zeroing → k ≤ m.taken + 1 → row = .next { s with part := { p with meas := { m with
      sum := 0, taken := 0, zero := some ((sum + k / 2) / k), state := .settling, range := some r, stimulus := some r
      tried := addTried r m.tried, attempt := 0, sampleA := none, sampleB := none
      flags := { m.flags with unsettled := false }, sampleDue := p.now + settleInterval r } } }) ∧
    (m.state = .integrating → m.taken + 1 < k → row = .next { s with part := { p with meas :=
      { m with sum, taken := m.taken + 1, saturated := sat, sampleDue := p.now + us 100 } } }) ∧
    (m.state = .integrating → k ≤ m.taken + 1 →
      let v := resistance (if sat then 65535 else (sum + k / 2) / k) (m.zero.getD 0) r
      row = .next { s with part := { p with meas := { m with
        saturated := sat, sampleDue := p.now + us 100, state := .discharging, stimulus := none, dischargeOn := true
        discharge := some ⟨.final, p.now + us 1000⟩, sum := 0, taken := 0
        flags := { m.flags with offsetClamp := v.offsetClamp, saturated := v.saturated }
        computed := some ⟨v.value, r, if v.value < l.low then .failLow else if l.high < v.value then .failHigh else .pass⟩ } } })

/-- R146 to R148: settle sample a is kept and b follows 100 µs later. Where a and b differ by no more than a 256th of
the larger of them and 4, the reading b is ranged; where they do not agree, a further attempt follows the range's settle
interval, up to the fifth pair, which is ranged with UNSETTLED. (What becomes of a and b in the record after that is the
model's choice: log 43.) Ranging takes the next range while the reading is out of class and that range exists and is
untried; else INTEGRATING begins, with RANGE_LIMIT where the reading is out of class. -/
def Obligations.SettlingRangesTheReading : Prop :=
  ∀ (s : State) (dt : Time) (code : Code) (r : Nat),
    s.part.meas.state = .settling → s.part.meas.sampleDue ≤ s.part.now + dt → s.part.meas.range = some r →
    let p := s.part.elapse dt
    let m := s.part.meas
    let b := code.toNat
    let ranged := fun m : Meas =>
      let class' := if 60000 < b then 1 else if b < 3000 then 2 else 0
      let settle := fun n => { m with
        state := .settling, range := some n, stimulus := some n, attempt := 0, sampleA := none, sampleB := none
        tried := if n ∈ m.tried then m.tried else m.tried ++ [n], flags := { m.flags with unsettled := false }
        sampleDue := p.now + us (if n ≤ 2 then 200 else if n = 3 then 500 else if n = 4 then 2000 else 8000) }
      if class' = 1 ∧ r < 5 ∧ r + 1 ∉ m.tried then settle (r + 1)
      else if class' = 2 ∧ 0 < r ∧ r - 1 ∉ m.tried then settle (r - 1)
      else { m with state := .integrating, sum := 0, taken := 0, saturated := false
                    flags := { m.flags with rangeLimit := decide (class' ≠ 0) }, sampleDue := p.now + us 100 }
    (m.sampleA = none → exec (.settleSampleA dt code) s = .next { s with part := { p with meas :=
      { m with sampleA := some b, sampleB := none, sampleDue := p.now + us 100 } } }) ∧
    (∀ a, m.sampleA = some a →
      let agree := max a b - min a b ≤ max a b / 256 + 4
      (agree → exec (.settleCheck dt code) s = .next { s with part := { p with meas := ranged { m with sampleB := some b } } }) ∧
      (¬ agree → m.attempt < 4 → exec (.settleCheck dt code) s = .next { s with part := { p with meas :=
        { m with sampleB := some b, attempt := m.attempt + 1, sampleA := none, sampleDue := p.now + settleInterval r } } }) ∧
      (¬ agree → 4 ≤ m.attempt → exec (.settleCheck dt code) s = .next { s with part := { p with meas :=
        (ranged { m with sampleB := some b, flags := { m.flags with unsettled := true } }) } }))

/-- R152 to R156: a timing ends at the crossing with one count per 0.1 µs, or at 65,535 as a timeout. A ranging timing
takes the next range (current from here on, the model's choice: log 44) or accepts the current one, and a counted one
joins the sum; each is followed by a discharge of 200 µs, and the k-th counted one by the value and the final discharge.
The 200 µs over, the next timing starts. -/
def Obligations.TimingsAreRangedAndSummed : Prop :=
  ∀ (s : State) (dt : Time) (k r : Nat), s.part.meas.k = some k → s.part.meas.range = some r →
    let p := s.part.elapse dt
    let m := s.part.meas
    let count := (p.now - m.timingFrom) / 2
    let between' := fun m : Meas => { m with
      state := .discharging, stimulus := none, discharge := some ⟨.between, p.now + us 200⟩, dischargeOn := true }
    let ended := fun t : Option Nat =>
      let class' := if t = none then 1 else if t.getD 0 < 1000 then 2 else 0
      if m.counted then
        let sum := m.sum + t.getD 65535
        let m1 := { m with sum, taken := m.taken + 1, saturated := m.saturated || t.isNone }
        if m.taken + 1 < k then between' m1
        else m1.conclude (capacitance (if m1.saturated then 65535 else (sum + k / 2) / k) r p.geo.stray) p.now
      else if class' = 1 ∧ r < 2 ∧ r + 1 ∉ m.tried then between' { m with range := some (r + 1) }
      else if class' = 2 ∧ 0 < r ∧ r - 1 ∉ m.tried then between' { m with range := some (r - 1) }
      else between' { m with counted := true, sum := 0, taken := 0, saturated := false
                             flags := { m.flags with rangeLimit := decide (class' ≠ 0) } }
    (m.state = .timing → count < 65535 →
      exec (.timingCrossing dt) s = .next { s with part := { p with meas := ended (some count) } }) ∧
    (m.state = .timing → 65535 ≤ count →
      exec (.timingTimeout dt) s = .next { s with part := { p with meas := ended none } }) ∧
    (∀ due, m.state = .discharging → m.discharge = some ⟨.between, due⟩ → due ≤ p.now →
      exec (.betweenDischargeEnd dt) s = .next { s with part := { p with meas := { m with
        state := .timing, stimulus := some r, tried := addTried r m.tried, discharge := none, dischargeOn := false
        timingFrom := p.now } } })

/-- R81, R97, R157, R161, R163: the final discharge over, the completed measurement goes to its owner, or after an abort
its end does; an abort's discharge over, the abort has ended: the unit is IDLE with the stimulus off and every switch
open, a stop's lift begins, and a solo touch whose outcome is set lifts; a rendezvous that was ended in MEASURING, here
with no LINE claim pending, fills its ABANDON now, goes to FINISHING, breaks its connections and lifts (log 15), and one
in FINISHING lifts if it has not; then a SOURCE drops its lines where it may, and a rendezvous in FINISHING closes where
it can. The reset discharge over, the unit is IDLE, and what waited for that goes on as after an abort, with the
measurement of a landed CAPR touch or of a SOURCE that has heard JOINED (log 48). (What each end clears of the record:
log 30.) For a solo touch the verdict and the value go into the touch record and the touch lifts. For a SOURCE the
verdict is also its rendezvous' outcome, its connections are broken, DONE is filled as the ending frame, and it goes to
FINISHING and lifts. -/
def Obligations.DischargesEndTheMeasurement : Prop :=
  ∀ (s : State) (dt due : Time), s.part.meas.state = .discharging → due ≤ s.part.now + dt →
    let p := s.part.elapse dt
    let m := s.part.meas
    (m.discharge = some ⟨.final, due⟩ → ∀ c, m.computed = some c →
      exec (.finalDischargeEnd dt) s = .next { s with part := p.measured c } ∧
      (∀ t l, m.owner = some .touchList → m.latched = some l → l.kind = .capr → m.breakAtEnd = false →
        p.pair.rdv = none → p.work.touch = some t → m.forceSw = none → p.motion.zState = .landed →
        p.measured c = { p with
          meas := { m with state := .idle, owner := none, latched := none, discharge := none, dischargeOn := false
                           stimulus := none, breakAtEnd := false, computed := none, localIn := false }
          work := { p.work with touch := some { t with
            outcome := some c.verdict, meas := some ⟨c.value, c.range, m.flags⟩, stage := .lift } }
          motion := { p.motion with zState := .lifting, descent := none, handed := none, liftWanted := false } }) ∧
      (∀ t l r, m.owner = some .pairUnit → m.latched = some l → l.kind ≠ .capr →
        p.pair.rdv = some r → p.work.touch = some t → p.motion.zState = .landed →
        p.measured c = { p with
          meas := { m with state := .idle, owner := none, latched := none, discharge := none, dischargeOn := false
                           stimulus := none, breakAtEnd := false, computed := none, forceSw := none, retSw := none
                           senseSw := none }
          link := p.link.fillPair ⟨.done, none, r.tag, r.partner⟩
          pair := { p.pair with rdv := some { r with
            outcome := some c.verdict, connected := false, ending := some .done, endingDone := false, state := .finishing } }
          work := { p.work with touch := some { t with
            outcome := some c.verdict, meas := some ⟨c.value, c.range, m.flags⟩, stage := .lift } }
          motion := { p.motion with zState := .lifting, descent := none, handed := none, liftWanted := false } })) ∧
    (m.discharge = some ⟨.final, due⟩ → m.computed = none →
      exec (.finalDischargeEnd dt) s = .next { s with part := p.abortEnded } ∧
      exec (.abortDischargeEnd dt) s = .next { s with part := p.abortEnded }) ∧
    (m.discharge = some ⟨.abort, due⟩ → exec (.abortDischargeEnd dt) s = .next { s with part := p.abortEnded }) ∧
    (m.discharge = some ⟨.reset, due⟩ → s.part.ctl.resetHold = none →
      let q : Fc4 := { p with meas := { m with
        state := .idle, owner := none, latched := none, discharge := none, dischargeOn := false, stimulus := none
        breakAtEnd := false } }
      exec (.resetDischargeEnd dt) s = .next { s with part := q.unitFreed.startWaiting } ∧
      (p.motion.liftWanted = false → p.pair.rdv = none → p.work.touch = none → q.unitFreed.startWaiting = q)) ∧
    (∀ q : Fc4,
      (∀ t e, q.pair.rdv = none → q.work.touch = some t → q.activeEntry = some e → t.stage = .measure → t.outcome = none →
        q.motion.zState = .landed → q.meas.state = .idle →
        q.startWaiting = { q with meas := q.meas.begin .touchList ⟨e.kind, e.low, e.high, e.hint⟩ q.now }) ∧
      (∀ r, q.pair.rdv = some r → r.state = .joinedWait → r.joinedHeard = true → q.startWaiting = q.startMeasuring)) ∧
    (∀ (q : Fc4) (r : Rendezvous) (t : TouchRecord) (o : TouchOutcome),
      q.pair.rdv = some r → q.work.touch = some t → r.outcome = some o → t.stage = .measure →
      q.motion.zState = .landed → q.motion.liftWanted = false →
      let r' := { r with connected := false, state := .finishing }
      let lifted : Fc4 := { q with
        meas := { q.meas with
          state := .idle, owner := none, latched := none, discharge := none, dischargeOn := false, stimulus := none
          breakAtEnd := false, forceSw := none, retSw := none, senseSw := none, localIn := false }
        work := { q.work with touch := some { t with stage := .lift } }
        motion := { q.motion with zState := .lifting, descent := none, handed := none }
        pair := { q.pair with rdv := some r' } }
      (r.state = .finishing → q.abortEnded = lifted.dropLinesIfDone.closeCheck) ∧
      (r.state = .measuring → q.lineClaimPending = false →
        (r.quiet = true →
          q.abortEnded = ({ lifted with pair := { q.pair with rdv := some { r' with timer := none } } }).dropLinesIfDone) ∧
        (r.quiet = false → q.abortEnded = ({ lifted with
          link := q.link.fillPair ⟨.abandon, some o, r.tag, r.partner⟩
          pair := { q.pair with rdv := some { r' with
            timer := none, ending := some .abandon, endingDone := false } } }).dropLinesIfDone))) ∧
    (∀ q : Fc4, let u := q.abortEnded
      (u.meas.state = .idle ∧ u.meas.stimulus = none ∧ u.meas.forceSw = none ∧ u.meas.retSw = none ∧
        u.meas.senseSw = none ∧ u.meas.localIn = false ∧ u.meas.dischargeOn = false) ∧
      u = ({ q with
        meas := { q.meas with
          state := .idle, owner := none, latched := none, discharge := none, dischargeOn := false, stimulus := none
          breakAtEnd := false, forceSw := none, retSw := none, senseSw := none, localIn := false }
        pair := { q.pair with rdv := q.pair.rdv.map (fun r : Rendezvous => { r with connected := false }) } }).unitFreed ∧
      (q.pair.rdv = none → q.work.touch = none → q.motion.liftWanted = true → q.motion.zState = .landed →
        u.motion.zState = .lifting) ∧
      (∀ t, q.pair.rdv = none → q.work.touch = some t → t.stage = .measure → t.outcome.isSome = true →
        u.work.touch = some { t with stage := .lift } ∧ (q.motion.zState = .landed → u.motion.zState = .lifting)))

/-- R144, R150, R155, R156: the average is the nearest integer with halves up; a resistance is the nearest centiohm,
halves up, of a third of the ten-to-the-range part of the reading less its zero, and clamps at 0; a capacitance is 100
fF times ten-to-the-range per count less the stray, and clamps at 0; a saturated mean gives the marker 4,294,967,295.
The value stands in the computed result with the accepted range, its verdict by the limits, and its flags in the
record. -/
def Obligations.ValuesFollowTheArithmetic : Prop :=
  (∀ sum k, 0 < k → 2 * sum < 2 * k * average sum k + k ∧ 2 * k * average sum k ≤ 2 * sum + k) ∧
  (∀ n z r, n ≠ 65535 → z ≤ n → (resistance n z r).offsetClamp = false ∧ (resistance n z r).saturated = false ∧
    2 * (n - z) * 10 ^ r < 6 * (resistance n z r).value + 3 ∧ 6 * (resistance n z r).value ≤ 2 * (n - z) * 10 ^ r + 3) ∧
  (∀ n z r, n ≠ 65535 → n < z → resistance n z r = ⟨0, true, false⟩) ∧
  (∀ z r, resistance 65535 z r = ⟨4294967295, false, true⟩) ∧
  (∀ t c stray, t ≠ 65535 → stray ≤ 100 * 10 ^ c * t → capacitance t c stray = ⟨100 * 10 ^ c * t - stray, false, false⟩) ∧
  (∀ t c stray, t ≠ 65535 → 100 * 10 ^ c * t < stray → capacitance t c stray = ⟨0, true, false⟩) ∧
  (∀ c stray, capacitance 65535 c stray = ⟨4294967295, false, true⟩) ∧
  (∀ (m : Meas) (a : Arithmetic) (l : Latched) (r : Nat) (now : Time), m.range = some r → m.latched = some l →
    let u := m.conclude a now
    u.computed = some ⟨a.value, r, if a.value < l.low then .failLow else if l.high < a.value then .failHigh else .pass⟩ ∧
    u.flags = ⟨m.flags.unsettled, a.offsetClamp, m.flags.rangeLimit, a.saturated⟩ ∧ u.stimulus = none ∧
    u.discharge = some ⟨.final, now + us 1000⟩)

/-! ### The sequencer's commands (chapter 10) -/

/-- R68, R73, R74, R76, R78, R85, R90, R125, R174, R186 to R188: a command aimed at the station or at all is taken in
its modes and makes its effect, after which ACCEPTED is handed over; else BUSY is, and nothing more. START: IDLE without
a PARK, or PAUSED. PAUSE: RUNNING. PURGE: IDLE, PAUSED, STOPPED. PARK: IDLE without a due yield (log 42). QUERY: any
mode but STARTING. A RESET in STARTING is BUSY. One aimed elsewhere, a RESET too, and an unknown code do nothing. The
outcome handed over is the last command's, and the STATUS slot is filled. The start test: in RUNNING, with no touch, no
due yield and room for a result, the front entry is started. A paired one whose partner is absent, SILENT, STOPPED or in
CFG_FAULT is deferred where it may be and else gives PARTNER_LOST; one whose partner waits for another tag is deferred
where it may be; and the test goes on with the next entry. One that is started becomes ACTIVE in stage CLAIM, opens its
rendezvous, and hands its pad over where the carriage stands on it, or else requests the move. WAITING_RESULTS stands
where only the room is missing. -/
def Obligations.CommandsAreTakenOrBusy : Prop :=
  (∀ (s : State) (dt : Time) (target : Station) (code : Byte), (s.part.elapse dt).hears (frameTime 1) = true →
    let p := (s.part.elapse dt).lineUsed
    let mode := s.part.ctl.mode
    let running : Fc4 := { p with ctl := { p.ctl with mode := .running } }
    let pausing : Fc4 := { p with ctl := { p.ctl with mode := if p.work.touch.isSome then .pausing else .paused } }
    let emptied : Fc4 := { p with work := { p.work with list := [] } }
    let parked : Fc4 := if p.motion.park then p else ({ p with motion := { p.motion with park := true } }).parkProceeds
    let starts := (mode = .idle ∧ p.motion.park = false) ∨ mode = .paused
    let done := fun (row : Instr) (u : Fc4) (c : Command) (o : CommandOutcome) =>
      exec row s = .next { s with part := (u.reportCommand c o).recheck }
    (target = s.part.own ∨ target = 0 →
      (starts → done (.start dt target) running.testStart .start .accepted) ∧
      (¬ starts → done (.start dt target) p .start .busy) ∧
      (mode = .running → done (.pause dt target) pausing.refreshWaiting .pause .accepted) ∧
      (mode ≠ .running → done (.pause dt target) p .pause .busy) ∧
      (mode ∈ [.idle, .paused, .stopped] → done (.purge dt target) emptied.refreshWaiting .purge .accepted) ∧
      (mode ∉ [.idle, .paused, .stopped] → done (.purge dt target) p .purge .busy) ∧
      (mode = .idle ∧ p.resv.yieldDue = false → done (.park dt target) parked .park .accepted) ∧
      (¬ (mode = .idle ∧ p.resv.yieldDue = false) → done (.park dt target) p .park .busy) ∧
      (mode ≠ .starting → done (.query dt target) p .query .accepted) ∧
      (mode = .starting → done (.query dt target) p .query .busy ∧
        ∀ straps reading, done (.reset dt target straps reading) p .reset .busy)) ∧
    (target ≠ s.part.own → target ≠ 0 →
      ∀ row ∈ [.start dt target, .pause dt target, .purge dt target, .park dt target, .query dt target, .clear dt target],
        exec row s = .next { s with part := p.recheck }) ∧
    (target ≠ s.part.own → target ≠ 0 →
      ∀ straps reading, exec (.reset dt target straps reading) s = .next { s with part := p.recheck }) ∧
    exec (.unknownCommand dt target code) s = .next { s with part := p.recheck }) ∧
  (∀ (p : Fc4) (c : Command) (o : CommandOutcome),
    let u := p.reportCommand c o
    u.link.status = true ∧
    (p.link.sending .status = false → u.link = { p.link with status := true }) ∧
    u = { p with link := u.link, results := { p.results with last := some (c, o) } }) ∧
  ∀ p : Fc4,
    let idle := p.ctl.mode = .running ∧ p.work.touch = none ∧ p.front.isSome = true ∧ p.resv.yieldDue = false
    let starts := idle ∧ p.results.queue.length < 64
    (starts ↔ p.canStart = true) ∧
    (∀ q : Fc4, (q.refreshWaiting).work.waiting = true ↔ q.ctl.mode = .running ∧ q.work.touch = none ∧ q.front.isSome = true ∧
      q.resv.yieldDue = false ∧ 64 ≤ q.results.queue.length) ∧
    (∀ q : Fc4, q.refreshWaiting = { q with work := { q.work with waiting := q.refreshWaiting.work.waiting } }) ∧
    (¬ starts → p.testStart = p.refreshWaiting) ∧
    ∀ e, p.front = some e →
      let gone := fun partner : Station => ∀ x, p.record partner = some x →
        x.presence = .silent ∨ x.mode = some .stopped ∨ x.mode = some .cfgFault
      let elsewhere := fun t : PairTerms => ∃ x, p.record t.partner = some x ∧ x.frontTag ≠ 0 ∧ x.frontTag ≠ t.tag
      let deferrable := e.deferCount < 3 ∧ ∃ o ∈ p.work.list, o.id ≠ e.id ∧ o.st ≠ .finished
      let deferred : Fc4 := { p with
        work := { p.work with touch := none, list := p.work.list.filter (fun o => !decide (o.id = e.id)) ++
          [{ e with deferCount := e.deferCount + 1, st := .queued }] }
        pair := { p.pair with rdv := none } }
      let active : Fc4 := { p with
        work := { p.work with
          list := p.work.list.map (fun o => if o.id = e.id then { o with st := .active } else o)
          touch := some ⟨e.id, .claim, none, none, none⟩ }
        pair := { p.pair with rdv := e.terms.map (fun t : PairTerms =>
          { state := .heading, tag := t.tag, partner := t.partner, role := t.role, kind := e.kind, timer := none
            forceLine := none, retLine := none, connected := false, joinedHeard := false, roleChecked := false
            outcome := none, quiet := false, ending := none, endingDone := false }) } }
      let begun := if p.motion.axis = .standing ∧ p.here = e.pad then active.enterDescent e else active.requestMove .touchList e.pad
      let lost := p.produceResult e.id (buildResult e .partnerLost none none)
      (starts → (∀ t, e.terms = some t → ¬ gone t.partner ∧ ¬ (elsewhere t ∧ deferrable)) →
        p.testStart = begun.refreshWaiting) ∧
      (starts → p.ListOk → ∀ t, e.terms = some t →
        ((gone t.partner ∨ elsewhere t) → deferrable → p.testStart = deferred.testStart) ∧
        (gone t.partner → ¬ deferrable → p.testStart = lost.testStart))

/-- R190: a HALT stops a working station with HALT, whatever its target, and does nothing in another mode. R63, R107,
R115, R127, R142, R191: what an entry to STOPPED does, from any state: no claim, ask, received ask or due yield; no
touch and no rendezvous; where a touch was in progress its ACTIVE entry is QUEUED, and the list is otherwise as it was;
a move is stopped with STOP to both axes, a permitted move and a PARK end; a descent lifts; the stimulus is off. The
CLAIM of the withdrawn claim, an ASK not yet sent and the PAIR frame of the rendezvous leave their slots. Where the
carriage stands the stop's RELEASE is filled, or waits for an own CLAIM on the line; else it comes when the axes have
stopped. The measurement is aborted: one under way goes to the abort's discharge of 1,000 µs, an earlier discharge
becomes it, a final one runs on without its result; in IDLE, and in a reset discharge (log 48), every switch opens at
once, as a SENSE's does in any state, and else all open at the abort's end. Held box and lines, queue, heights and peers
are as before. -/
def Obligations.HaltStopsEveryBlock : Prop :=
  (∀ (s : State) (dt : Time) (target : Station), (s.part.elapse dt).hears (frameTime 0) = true →
    let p := (s.part.elapse dt).lineUsed
    (s.part.ctl.mode ∈ [.idle, .running, .pausing, .paused] →
      exec (.halt dt target) s = .next { s with part := (p.enterStopped .halt).recheck } ∧
      (p.enterStopped .halt).recheck = p.enterStopped .halt) ∧
    (s.part.ctl.mode ∈ [.starting, .cfgFault, .stopped] → exec (.halt dt target) s = .next { s with part := p.recheck })) ∧
  ∀ (p : Fc4) (r : StopReason),
    let u := p.enterStopped r
    u.ctl.mode = .stopped ∧ u.ctl.reason = r ∧
    u.resv.claim = none ∧ (p.resv.claim.isSome = true → u.resv.blockedSince = none) ∧ u.resv.ask = none ∧
    u.resv.asks = [] ∧ u.resv.yieldDue = false ∧
    u.resv.heldBox = p.resv.heldBox ∧ u.resv.heldLines = p.resv.heldLines ∧ u.resv.shadows = p.resv.shadows ∧
    u.work.touch = none ∧ u.pair.rdv = none ∧ u.work.waiting = false ∧
    u.work.list = (if p.work.touch.isSome then
      p.work.list.map (fun e : Entry => if e.st = .active then { e with st := .queued } else e) else p.work.list) ∧
    (p.motion.axis = .moving → u.motion.axis = .stopping ∧ u.motion.outX = .stop ∧ u.motion.outY = .stop ∧
      u.motion.stopFrom = some p.here) ∧
    (p.motion.axis ≠ .moving → u.motion.axis = p.motion.axis ∧ u.motion.outX = p.motion.outX ∧ u.motion.outY = p.motion.outY) ∧
    u.motion.permitted = none ∧ u.motion.park = false ∧ u.motion.handed = none ∧
    (p.motion.zState = .fastDescent ∨ p.motion.zState = .search → u.motion.zState = .lifting ∧ u.motion.descent = none) ∧
    (p.motion.zState = .landed → (u.meas.state = .idle ∧ u.motion.zState = .lifting) ∨
      (u.meas.state ≠ .idle ∧ u.motion.zState = .landed ∧ u.motion.liftWanted = true)) ∧
    u.meas.stimulus = none ∧ u.results = p.results ∧ u.heights = p.heights ∧ u.view = p.view ∧
    (p.resv.claim.isSome = true → u.link.claim = none) ∧ (p.pair.rdv.isSome = true → u.link.pair = none) ∧
    (∀ a, p.resv.ask = some a → a.sent = none → u.link.ask = none) ∧
    u.link.touch = p.link.touch ∧ u.link.beacon = p.link.beacon ∧ u.link.status = p.link.status ∧
    u.link.result = p.link.result ∧
    (p.motion.axis ≠ .standing → u.link.release = p.link.release ∧ u.resv.waiting = p.resv.waiting) ∧
    (p.motion.axis = .standing →
      let box := if r = .axisFault then p.heldOrStanding else p.standing
      let holds := if r = .axisFault then p.resv.heldLines = ⟨none, none⟩
        else p.resv.heldBox = some p.standing ∧ p.resv.heldLines = ⟨none, none⟩
      (p.link.sending .claim = true → u.resv.waiting = some .carriageStands ∧ u.link.release = p.link.release) ∧
      (p.link.sending .claim = false → u.resv.waiting = p.resv.waiting ∧
        (holds → u.link.release = p.link.release) ∧
        (¬ holds → u.link.release = some ⟨box, ⟨none, none⟩, 0, decide (p.here = p.geo.haven)⟩))) ∧
    (let m : Meas := if p.pair.rdv.isSome then { p.meas with senseSw := none } else p.meas
      let noFlags : MeasFlags := ⟨false, false, false, false⟩
      let aborting : Meas := { m with
        stimulus := none, discharge := some ⟨.abort, p.now + us 1000⟩, flags := noFlags, sum := 0, taken := 0 }
      (m.state = .idle → u.meas = { m with
        stimulus := none, forceSw := none, retSw := none, senseSw := none, localIn := false }) ∧
      (m.state ∈ [.zeroing, .settling, .ranging, .integrating, .timing] → u.meas = { aborting with
        state := .discharging, dischargeOn := true, zero := none, sampleA := none, sampleB := none }) ∧
      (∀ due, m.state = .discharging →
        (m.discharge = some ⟨.between, due⟩ → u.meas = aborting) ∧
        (m.discharge = some ⟨.final, due⟩ → u.meas = { m with stimulus := none, computed := none, flags := noFlags }) ∧
        (m.discharge = some ⟨.abort, due⟩ → u.meas = { m with stimulus := none }) ∧
        (m.discharge = some ⟨.reset, due⟩ → u.meas = { m with
          stimulus := none, forceSw := none, retSw := none, senseSw := none, localIn := false })))

/-- R64, R124, R191, R193, R194: a CLEAR aimed at the station or at all is NOT_CLEARABLE for LINK_CUTOFF and
DUP_STATION, and ACCEPTED in STOPPED once the stop is settled (with the axes STANDING: log 22), where for CROWDED no
PRESENT peer overlaps and for AXIS_FAULT no axis has a fault and the reported position can be trusted; else BUSY. An
accepted one enters IDLE with no reason and no overload latch, and after AXIS_FAULT a RELEASE falls due. -/
def Obligations.ClearLeavesASettledStop : Prop :=
  ∀ (s : State) (dt : Time) (target : Station), (s.part.elapse dt).hears (frameTime 1) = true →
    target = s.part.own ∨ target = 0 →
    let p := (s.part.elapse dt).lineUsed
    let reason := s.part.ctl.reason
    let stopped := s.part.ctl.mode = .stopped
    let settled := (p.motion.ax.inPosition = true ∨ p.motion.ax.fault = true) ∧
      (p.motion.ay.inPosition = true ∨ p.motion.ay.fault = true) ∧ p.motion.axis = .standing ∧
      p.motion.zState = .raised ∧ p.meas.state = .idle
    let trusted := allowed p.geo p.here = true ∧ ∃ b, p.resv.heldBox = some b ∧ inside p.standing b = true
    let final := reason = .linkCutoff ∨ reason = .dupStation
    let clear := stopped ∧ ¬ final ∧ settled ∧ (reason = .crowded → p.crowded = false) ∧
      (reason = .axisFault → p.motion.ax.fault = false ∧ p.motion.ay.fault = false ∧ trusted)
    let cleared := fun q : Fc4 => { q with
      ctl := { q.ctl with mode := .idle, reason := .noReason, axisFaulted := false }, motion := { q.motion with latch := false } }
    let done := fun (u : Fc4) (o : CommandOutcome) =>
      exec (.clear dt target) s = .next { s with part := (u.reportCommand .clear o).recheck }
    (stopped → final → done p .notClearable) ∧
    (clear → reason = .axisFault → done (cleared (p.releaseDue .axisFaultCleared)) .accepted) ∧
    (clear → reason ≠ .axisFault → done (cleared p) .accepted) ∧
    (¬ clear → ¬ (stopped ∧ final) → done p .busy)
end

