-- ==== Sys2Proof/Laws/State.lean ====
section
/-! SUPPORT. Field lemmas of the named updates: one per block and update, true by rfl. -/

namespace Sys2Proof.Machine

/-! ### `Fc4.elapse` -/

@[simp] theorem Fc4.elapse_now (s : Fc4) (dt : Time) : (s.elapse dt).now = s.now + dt := rfl
@[simp] theorem Fc4.elapse_link (s : Fc4) (dt : Time) : (s.elapse dt).link = s.link := rfl
@[simp] theorem Fc4.elapse_view (s : Fc4) (dt : Time) : (s.elapse dt).view = s.view := rfl
@[simp] theorem Fc4.elapse_resv (s : Fc4) (dt : Time) : (s.elapse dt).resv = s.resv := rfl
@[simp] theorem Fc4.elapse_work (s : Fc4) (dt : Time) : (s.elapse dt).work = s.work := rfl
@[simp] theorem Fc4.elapse_pair (s : Fc4) (dt : Time) : (s.elapse dt).pair = s.pair := rfl
@[simp] theorem Fc4.elapse_motion (s : Fc4) (dt : Time) : (s.elapse dt).motion = s.motion := rfl
@[simp] theorem Fc4.elapse_heights (s : Fc4) (dt : Time) : (s.elapse dt).heights = s.heights := rfl
@[simp] theorem Fc4.elapse_meas (s : Fc4) (dt : Time) : (s.elapse dt).meas = s.meas := rfl
@[simp] theorem Fc4.elapse_results (s : Fc4) (dt : Time) : (s.elapse dt).results = s.results := rfl
@[simp] theorem Fc4.elapse_ctl (s : Fc4) (dt : Time) : (s.elapse dt).ctl = s.ctl := rfl

/-! ### `Fc4.lineUsed` -/

@[simp] theorem Fc4.lineUsed_now (s : Fc4) : (s.lineUsed).now = s.now := rfl
@[simp] theorem Fc4.lineUsed_link (s : Fc4) : (s.lineUsed).link = { s.link with idleFrom := s.now + idleTime } := rfl
@[simp] theorem Fc4.lineUsed_view (s : Fc4) : (s.lineUsed).view = s.view := rfl
@[simp] theorem Fc4.lineUsed_resv (s : Fc4) : (s.lineUsed).resv = s.resv := rfl
@[simp] theorem Fc4.lineUsed_work (s : Fc4) : (s.lineUsed).work = s.work := rfl
@[simp] theorem Fc4.lineUsed_pair (s : Fc4) : (s.lineUsed).pair = s.pair := rfl
@[simp] theorem Fc4.lineUsed_motion (s : Fc4) : (s.lineUsed).motion = s.motion := rfl
@[simp] theorem Fc4.lineUsed_heights (s : Fc4) : (s.lineUsed).heights = s.heights := rfl
@[simp] theorem Fc4.lineUsed_meas (s : Fc4) : (s.lineUsed).meas = s.meas := rfl
@[simp] theorem Fc4.lineUsed_results (s : Fc4) : (s.lineUsed).results = s.results := rfl
@[simp] theorem Fc4.lineUsed_ctl (s : Fc4) : (s.lineUsed).ctl = s.ctl := rfl

/-! ### `Fc4.mapList` -/

@[simp] theorem Fc4.mapList_now (s : Fc4) (f : List Entry → List Entry) : (s.mapList f).now = s.now := rfl
@[simp] theorem Fc4.mapList_link (s : Fc4) (f : List Entry → List Entry) : (s.mapList f).link = s.link := rfl
@[simp] theorem Fc4.mapList_view (s : Fc4) (f : List Entry → List Entry) : (s.mapList f).view = s.view := rfl
@[simp] theorem Fc4.mapList_resv (s : Fc4) (f : List Entry → List Entry) : (s.mapList f).resv = s.resv := rfl
@[simp] theorem Fc4.mapList_work (s : Fc4) (f : List Entry → List Entry) : (s.mapList f).work = { s.work with list := f s.work.list } := rfl
@[simp] theorem Fc4.mapList_pair (s : Fc4) (f : List Entry → List Entry) : (s.mapList f).pair = s.pair := rfl
@[simp] theorem Fc4.mapList_motion (s : Fc4) (f : List Entry → List Entry) : (s.mapList f).motion = s.motion := rfl
@[simp] theorem Fc4.mapList_heights (s : Fc4) (f : List Entry → List Entry) : (s.mapList f).heights = s.heights := rfl
@[simp] theorem Fc4.mapList_meas (s : Fc4) (f : List Entry → List Entry) : (s.mapList f).meas = s.meas := rfl
@[simp] theorem Fc4.mapList_results (s : Fc4) (f : List Entry → List Entry) : (s.mapList f).results = s.results := rfl
@[simp] theorem Fc4.mapList_ctl (s : Fc4) (f : List Entry → List Entry) : (s.mapList f).ctl = s.ctl := rfl

/-! ### `Fc4.mapTouch` -/

@[simp] theorem Fc4.mapTouch_now (s : Fc4) (f : TouchRecord → TouchRecord) : (s.mapTouch f).now = s.now := rfl
@[simp] theorem Fc4.mapTouch_link (s : Fc4) (f : TouchRecord → TouchRecord) : (s.mapTouch f).link = s.link := rfl
@[simp] theorem Fc4.mapTouch_view (s : Fc4) (f : TouchRecord → TouchRecord) : (s.mapTouch f).view = s.view := rfl
@[simp] theorem Fc4.mapTouch_resv (s : Fc4) (f : TouchRecord → TouchRecord) : (s.mapTouch f).resv = s.resv := rfl
@[simp] theorem Fc4.mapTouch_work (s : Fc4) (f : TouchRecord → TouchRecord) : (s.mapTouch f).work = { s.work with touch := s.work.touch.map f } := rfl
@[simp] theorem Fc4.mapTouch_pair (s : Fc4) (f : TouchRecord → TouchRecord) : (s.mapTouch f).pair = s.pair := rfl
@[simp] theorem Fc4.mapTouch_motion (s : Fc4) (f : TouchRecord → TouchRecord) : (s.mapTouch f).motion = s.motion := rfl
@[simp] theorem Fc4.mapTouch_heights (s : Fc4) (f : TouchRecord → TouchRecord) : (s.mapTouch f).heights = s.heights := rfl
@[simp] theorem Fc4.mapTouch_meas (s : Fc4) (f : TouchRecord → TouchRecord) : (s.mapTouch f).meas = s.meas := rfl
@[simp] theorem Fc4.mapTouch_results (s : Fc4) (f : TouchRecord → TouchRecord) : (s.mapTouch f).results = s.results := rfl
@[simp] theorem Fc4.mapTouch_ctl (s : Fc4) (f : TouchRecord → TouchRecord) : (s.mapTouch f).ctl = s.ctl := rfl

/-! ### `Fc4.mapRdv` -/

@[simp] theorem Fc4.mapRdv_now (s : Fc4) (f : Rendezvous → Rendezvous) : (s.mapRdv f).now = s.now := rfl
@[simp] theorem Fc4.mapRdv_link (s : Fc4) (f : Rendezvous → Rendezvous) : (s.mapRdv f).link = s.link := rfl
@[simp] theorem Fc4.mapRdv_view (s : Fc4) (f : Rendezvous → Rendezvous) : (s.mapRdv f).view = s.view := rfl
@[simp] theorem Fc4.mapRdv_resv (s : Fc4) (f : Rendezvous → Rendezvous) : (s.mapRdv f).resv = s.resv := rfl
@[simp] theorem Fc4.mapRdv_work (s : Fc4) (f : Rendezvous → Rendezvous) : (s.mapRdv f).work = s.work := rfl
@[simp] theorem Fc4.mapRdv_pair (s : Fc4) (f : Rendezvous → Rendezvous) : (s.mapRdv f).pair = { s.pair with rdv := s.pair.rdv.map f } := rfl
@[simp] theorem Fc4.mapRdv_motion (s : Fc4) (f : Rendezvous → Rendezvous) : (s.mapRdv f).motion = s.motion := rfl
@[simp] theorem Fc4.mapRdv_heights (s : Fc4) (f : Rendezvous → Rendezvous) : (s.mapRdv f).heights = s.heights := rfl
@[simp] theorem Fc4.mapRdv_meas (s : Fc4) (f : Rendezvous → Rendezvous) : (s.mapRdv f).meas = s.meas := rfl
@[simp] theorem Fc4.mapRdv_results (s : Fc4) (f : Rendezvous → Rendezvous) : (s.mapRdv f).results = s.results := rfl
@[simp] theorem Fc4.mapRdv_ctl (s : Fc4) (f : Rendezvous → Rendezvous) : (s.mapRdv f).ctl = s.ctl := rfl

/-! ### `Fc4.mapMeas` -/

@[simp] theorem Fc4.mapMeas_now (s : Fc4) (f : Meas → Meas) : (s.mapMeas f).now = s.now := rfl
@[simp] theorem Fc4.mapMeas_link (s : Fc4) (f : Meas → Meas) : (s.mapMeas f).link = s.link := rfl
@[simp] theorem Fc4.mapMeas_view (s : Fc4) (f : Meas → Meas) : (s.mapMeas f).view = s.view := rfl
@[simp] theorem Fc4.mapMeas_resv (s : Fc4) (f : Meas → Meas) : (s.mapMeas f).resv = s.resv := rfl
@[simp] theorem Fc4.mapMeas_work (s : Fc4) (f : Meas → Meas) : (s.mapMeas f).work = s.work := rfl
@[simp] theorem Fc4.mapMeas_pair (s : Fc4) (f : Meas → Meas) : (s.mapMeas f).pair = s.pair := rfl
@[simp] theorem Fc4.mapMeas_motion (s : Fc4) (f : Meas → Meas) : (s.mapMeas f).motion = s.motion := rfl
@[simp] theorem Fc4.mapMeas_heights (s : Fc4) (f : Meas → Meas) : (s.mapMeas f).heights = s.heights := rfl
@[simp] theorem Fc4.mapMeas_meas (s : Fc4) (f : Meas → Meas) : (s.mapMeas f).meas = f s.meas := rfl
@[simp] theorem Fc4.mapMeas_results (s : Fc4) (f : Meas → Meas) : (s.mapMeas f).results = s.results := rfl
@[simp] theorem Fc4.mapMeas_ctl (s : Fc4) (f : Meas → Meas) : (s.mapMeas f).ctl = s.ctl := rfl

/-! ### `Fc4.clearTouch` -/

@[simp] theorem Fc4.clearTouch_now (s : Fc4) : (s.clearTouch).now = s.now := rfl
@[simp] theorem Fc4.clearTouch_link (s : Fc4) : (s.clearTouch).link = s.link := rfl
@[simp] theorem Fc4.clearTouch_view (s : Fc4) : (s.clearTouch).view = s.view := rfl
@[simp] theorem Fc4.clearTouch_resv (s : Fc4) : (s.clearTouch).resv = s.resv := rfl
@[simp] theorem Fc4.clearTouch_work (s : Fc4) : (s.clearTouch).work = { s.work with touch := none } := rfl
@[simp] theorem Fc4.clearTouch_pair (s : Fc4) : (s.clearTouch).pair = { s.pair with rdv := none } := rfl
@[simp] theorem Fc4.clearTouch_motion (s : Fc4) : (s.clearTouch).motion = s.motion := rfl
@[simp] theorem Fc4.clearTouch_heights (s : Fc4) : (s.clearTouch).heights = s.heights := rfl
@[simp] theorem Fc4.clearTouch_meas (s : Fc4) : (s.clearTouch).meas = s.meas := rfl
@[simp] theorem Fc4.clearTouch_results (s : Fc4) : (s.clearTouch).results = s.results := rfl
@[simp] theorem Fc4.clearTouch_ctl (s : Fc4) : (s.clearTouch).ctl = s.ctl := rfl

/-! ### `Fc4.setMode` -/

@[simp] theorem Fc4.setMode_now (s : Fc4) (m : Mode) : (s.setMode m).now = s.now := rfl
@[simp] theorem Fc4.setMode_link (s : Fc4) (m : Mode) : (s.setMode m).link = s.link := rfl
@[simp] theorem Fc4.setMode_view (s : Fc4) (m : Mode) : (s.setMode m).view = s.view := rfl
@[simp] theorem Fc4.setMode_resv (s : Fc4) (m : Mode) : (s.setMode m).resv = s.resv := rfl
@[simp] theorem Fc4.setMode_work (s : Fc4) (m : Mode) : (s.setMode m).work = s.work := rfl
@[simp] theorem Fc4.setMode_pair (s : Fc4) (m : Mode) : (s.setMode m).pair = s.pair := rfl
@[simp] theorem Fc4.setMode_motion (s : Fc4) (m : Mode) : (s.setMode m).motion = s.motion := rfl
@[simp] theorem Fc4.setMode_heights (s : Fc4) (m : Mode) : (s.setMode m).heights = s.heights := rfl
@[simp] theorem Fc4.setMode_meas (s : Fc4) (m : Mode) : (s.setMode m).meas = s.meas := rfl
@[simp] theorem Fc4.setMode_results (s : Fc4) (m : Mode) : (s.setMode m).results = s.results := rfl
@[simp] theorem Fc4.setMode_ctl (s : Fc4) (m : Mode) : (s.setMode m).ctl = { s.ctl with mode := m } := rfl

/-! ### `Fc4.fillStatus` -/

@[simp] theorem Fc4.fillStatus_now (s : Fc4) : (s.fillStatus).now = s.now := rfl
@[simp] theorem Fc4.fillStatus_link (s : Fc4) : (s.fillStatus).link = s.link.fillStatus := rfl
@[simp] theorem Fc4.fillStatus_view (s : Fc4) : (s.fillStatus).view = s.view := rfl
@[simp] theorem Fc4.fillStatus_resv (s : Fc4) : (s.fillStatus).resv = s.resv := rfl
@[simp] theorem Fc4.fillStatus_work (s : Fc4) : (s.fillStatus).work = s.work := rfl
@[simp] theorem Fc4.fillStatus_pair (s : Fc4) : (s.fillStatus).pair = s.pair := rfl
@[simp] theorem Fc4.fillStatus_motion (s : Fc4) : (s.fillStatus).motion = s.motion := rfl
@[simp] theorem Fc4.fillStatus_heights (s : Fc4) : (s.fillStatus).heights = s.heights := rfl
@[simp] theorem Fc4.fillStatus_meas (s : Fc4) : (s.fillStatus).meas = s.meas := rfl
@[simp] theorem Fc4.fillStatus_results (s : Fc4) : (s.fillStatus).results = s.results := rfl
@[simp] theorem Fc4.fillStatus_ctl (s : Fc4) : (s.fillStatus).ctl = s.ctl := rfl

/-! ### `Fc4.fillBeacon` -/

@[simp] theorem Fc4.fillBeacon_now (s : Fc4) (due : Time) : (s.fillBeacon due).now = s.now := rfl
@[simp] theorem Fc4.fillBeacon_link (s : Fc4) (due : Time) : (s.fillBeacon due).link = { s.link.fillBeacon with beaconDue := some (due + beaconPeriod) } := rfl
@[simp] theorem Fc4.fillBeacon_view (s : Fc4) (due : Time) : (s.fillBeacon due).view = s.view := rfl
@[simp] theorem Fc4.fillBeacon_resv (s : Fc4) (due : Time) : (s.fillBeacon due).resv = s.resv := rfl
@[simp] theorem Fc4.fillBeacon_work (s : Fc4) (due : Time) : (s.fillBeacon due).work = s.work := rfl
@[simp] theorem Fc4.fillBeacon_pair (s : Fc4) (due : Time) : (s.fillBeacon due).pair = s.pair := rfl
@[simp] theorem Fc4.fillBeacon_motion (s : Fc4) (due : Time) : (s.fillBeacon due).motion = s.motion := rfl
@[simp] theorem Fc4.fillBeacon_heights (s : Fc4) (due : Time) : (s.fillBeacon due).heights = s.heights := rfl
@[simp] theorem Fc4.fillBeacon_meas (s : Fc4) (due : Time) : (s.fillBeacon due).meas = s.meas := rfl
@[simp] theorem Fc4.fillBeacon_results (s : Fc4) (due : Time) : (s.fillBeacon due).results = s.results := rfl
@[simp] theorem Fc4.fillBeacon_ctl (s : Fc4) (due : Time) : (s.fillBeacon due).ctl = s.ctl := rfl

/-! ### `Fc4.setOutcome` -/

@[simp] theorem Fc4.setOutcome_now (s : Fc4) (o : TouchOutcome) : (s.setOutcome o).now = s.now := rfl
@[simp] theorem Fc4.setOutcome_link (s : Fc4) (o : TouchOutcome) : (s.setOutcome o).link = s.link := rfl
@[simp] theorem Fc4.setOutcome_view (s : Fc4) (o : TouchOutcome) : (s.setOutcome o).view = s.view := rfl
@[simp] theorem Fc4.setOutcome_resv (s : Fc4) (o : TouchOutcome) : (s.setOutcome o).resv = s.resv := rfl
@[simp] theorem Fc4.setOutcome_work (s : Fc4) (o : TouchOutcome) : (s.setOutcome o).work = { s.work with touch := s.work.touch.map (fun t => { t with outcome := some o }) } := rfl
@[simp] theorem Fc4.setOutcome_pair (s : Fc4) (o : TouchOutcome) : (s.setOutcome o).pair = { s.pair with rdv := s.pair.rdv.map (fun r => { r with outcome := some o }) } := rfl
@[simp] theorem Fc4.setOutcome_motion (s : Fc4) (o : TouchOutcome) : (s.setOutcome o).motion = s.motion := rfl
@[simp] theorem Fc4.setOutcome_heights (s : Fc4) (o : TouchOutcome) : (s.setOutcome o).heights = s.heights := rfl
@[simp] theorem Fc4.setOutcome_meas (s : Fc4) (o : TouchOutcome) : (s.setOutcome o).meas = s.meas := rfl
@[simp] theorem Fc4.setOutcome_results (s : Fc4) (o : TouchOutcome) : (s.setOutcome o).results = s.results := rfl
@[simp] theorem Fc4.setOutcome_ctl (s : Fc4) (o : TouchOutcome) : (s.setOutcome o).ctl = s.ctl := rfl

/-! ### `Fc4.beginLift` -/

@[simp] theorem Fc4.beginLift_now (s : Fc4) : (s.beginLift).now = s.now := rfl
@[simp] theorem Fc4.beginLift_link (s : Fc4) : (s.beginLift).link = s.link := rfl
@[simp] theorem Fc4.beginLift_view (s : Fc4) : (s.beginLift).view = s.view := rfl
@[simp] theorem Fc4.beginLift_resv (s : Fc4) : (s.beginLift).resv = s.resv := rfl
@[simp] theorem Fc4.beginLift_work (s : Fc4) : (s.beginLift).work = s.work := rfl
@[simp] theorem Fc4.beginLift_pair (s : Fc4) : (s.beginLift).pair = s.pair := rfl
@[simp] theorem Fc4.beginLift_motion (s : Fc4) : (s.beginLift).motion = s.motion.lift := rfl
@[simp] theorem Fc4.beginLift_heights (s : Fc4) : (s.beginLift).heights = s.heights := rfl
@[simp] theorem Fc4.beginLift_meas (s : Fc4) : (s.beginLift).meas = s.meas := rfl
@[simp] theorem Fc4.beginLift_results (s : Fc4) : (s.beginLift).results = s.results := rfl
@[simp] theorem Fc4.beginLift_ctl (s : Fc4) : (s.beginLift).ctl = s.ctl := rfl

/-! ### `Fc4.complete` -/

@[simp] theorem Fc4.complete_now (s : Fc4) : (s.complete).now = s.now := rfl
@[simp] theorem Fc4.complete_link (s : Fc4) : (s.complete).link = { s.link.completeFrame true with idleFrom := s.now + idleTime } := rfl
@[simp] theorem Fc4.complete_view (s : Fc4) : (s.complete).view = s.view := rfl
@[simp] theorem Fc4.complete_resv (s : Fc4) : (s.complete).resv = s.resv := rfl
@[simp] theorem Fc4.complete_work (s : Fc4) : (s.complete).work = s.work := rfl
@[simp] theorem Fc4.complete_pair (s : Fc4) : (s.complete).pair = s.pair := rfl
@[simp] theorem Fc4.complete_motion (s : Fc4) : (s.complete).motion = s.motion := rfl
@[simp] theorem Fc4.complete_heights (s : Fc4) : (s.complete).heights = s.heights := rfl
@[simp] theorem Fc4.complete_meas (s : Fc4) : (s.complete).meas = s.meas := rfl
@[simp] theorem Fc4.complete_results (s : Fc4) : (s.complete).results = s.results := rfl
@[simp] theorem Fc4.complete_ctl (s : Fc4) : (s.complete).ctl = s.ctl := rfl

/-! ### `Fc4.takeClaim` -/

@[simp] theorem Fc4.takeClaim_now (s : Fc4) (f : ClaimFill) : (s.takeClaim f).now = s.now := rfl
@[simp] theorem Fc4.takeClaim_link (s : Fc4) (f : ClaimFill) : (s.takeClaim f).link = s.link := rfl
@[simp] theorem Fc4.takeClaim_view (s : Fc4) (f : ClaimFill) : (s.takeClaim f).view = s.view := rfl
@[simp] theorem Fc4.takeClaim_resv (s : Fc4) (f : ClaimFill) : (s.takeClaim f).resv = { s.resv with heldBox := some f.box, heldLines := f.lines } := rfl
@[simp] theorem Fc4.takeClaim_work (s : Fc4) (f : ClaimFill) : (s.takeClaim f).work = s.work := rfl
@[simp] theorem Fc4.takeClaim_pair (s : Fc4) (f : ClaimFill) : (s.takeClaim f).pair = s.pair := rfl
@[simp] theorem Fc4.takeClaim_motion (s : Fc4) (f : ClaimFill) : (s.takeClaim f).motion = s.motion := rfl
@[simp] theorem Fc4.takeClaim_heights (s : Fc4) (f : ClaimFill) : (s.takeClaim f).heights = s.heights := rfl
@[simp] theorem Fc4.takeClaim_meas (s : Fc4) (f : ClaimFill) : (s.takeClaim f).meas = s.meas := rfl
@[simp] theorem Fc4.takeClaim_results (s : Fc4) (f : ClaimFill) : (s.takeClaim f).results = s.results := rfl
@[simp] theorem Fc4.takeClaim_ctl (s : Fc4) (f : ClaimFill) : (s.takeClaim f).ctl = s.ctl := rfl

/-! ### `Fc4.reasonAxisFault` -/

@[simp] theorem Fc4.reasonAxisFault_now (s : Fc4) : (s.reasonAxisFault).now = s.now := rfl
@[simp] theorem Fc4.reasonAxisFault_link (s : Fc4) : (s.reasonAxisFault).link = s.link := rfl
@[simp] theorem Fc4.reasonAxisFault_view (s : Fc4) : (s.reasonAxisFault).view = s.view := rfl
@[simp] theorem Fc4.reasonAxisFault_resv (s : Fc4) : (s.reasonAxisFault).resv = s.resv := rfl
@[simp] theorem Fc4.reasonAxisFault_work (s : Fc4) : (s.reasonAxisFault).work = s.work := rfl
@[simp] theorem Fc4.reasonAxisFault_pair (s : Fc4) : (s.reasonAxisFault).pair = s.pair := rfl
@[simp] theorem Fc4.reasonAxisFault_motion (s : Fc4) : (s.reasonAxisFault).motion = s.motion := rfl
@[simp] theorem Fc4.reasonAxisFault_heights (s : Fc4) : (s.reasonAxisFault).heights = s.heights := rfl
@[simp] theorem Fc4.reasonAxisFault_meas (s : Fc4) : (s.reasonAxisFault).meas = s.meas := rfl
@[simp] theorem Fc4.reasonAxisFault_results (s : Fc4) : (s.reasonAxisFault).results = s.results := rfl
@[simp] theorem Fc4.reasonAxisFault_ctl (s : Fc4) : (s.reasonAxisFault).ctl = { s.ctl with reason := .axisFault, axisFaulted := true } := rfl

/-! ### `Fc4.dropNote` -/

@[simp] theorem Fc4.dropNote_now (s : Fc4) (p : Station) : (s.dropNote p).now = s.now := rfl
@[simp] theorem Fc4.dropNote_link (s : Fc4) (p : Station) : (s.dropNote p).link = s.link := rfl
@[simp] theorem Fc4.dropNote_view (s : Fc4) (p : Station) : (s.dropNote p).view = s.view := rfl
@[simp] theorem Fc4.dropNote_resv (s : Fc4) (p : Station) : (s.dropNote p).resv = s.resv := rfl
@[simp] theorem Fc4.dropNote_work (s : Fc4) (p : Station) : (s.dropNote p).work = s.work := rfl
@[simp] theorem Fc4.dropNote_pair (s : Fc4) (p : Station) : (s.dropNote p).pair = { s.pair with notes := tableDrop p.val s.pair.notes } := rfl
@[simp] theorem Fc4.dropNote_motion (s : Fc4) (p : Station) : (s.dropNote p).motion = s.motion := rfl
@[simp] theorem Fc4.dropNote_heights (s : Fc4) (p : Station) : (s.dropNote p).heights = s.heights := rfl
@[simp] theorem Fc4.dropNote_meas (s : Fc4) (p : Station) : (s.dropNote p).meas = s.meas := rfl
@[simp] theorem Fc4.dropNote_results (s : Fc4) (p : Station) : (s.dropNote p).results = s.results := rfl
@[simp] theorem Fc4.dropNote_ctl (s : Fc4) (p : Station) : (s.dropNote p).ctl = s.ctl := rfl

end Sys2Proof.Machine
end

