-- ==== Sys2Proof/Laws/Flow.lean ====
section
/-! SUPPORT. What the flows of a claim, a touch, a rendezvous and a stop leave as it was, and which of the
predicates of Safety.lean they keep: one lemma per operation, cited in place of unfolding it. -/

namespace Sys2Proof.Machine

/-! ### The relation -/

/-- The part of the Link Interface that no flow changes. -/
def Link.steady (l : Link) : Seq × Nat × Bool × Option Time × JoinTimer × Bool × Bool × Option Time :=
  (l.seq, l.fails, l.cutOff, l.linkDown, l.join, l.beacon, l.status, l.beaconDue)

/-- The part of the Motion Unit that no flow changes. -/
def Motion.steady (m : Motion) : AxisRec × AxisRec × Nat × Bool × Bool := (m.ax, m.ay, m.z, m.latch, m.faultSeen)

/-- The part of the Result Queue that no flow changes. -/
def Results.steady (r : Results) : List (Nat × RefusalCode) × Nat × Option (Command × CommandOutcome) :=
  (r.refusals, r.overflow, r.last)

/-- Mode Control but for mode and stop reason. -/
def Ctl.steady (c : Ctl) : Ctl := { c with mode := .idle, reason := .noReason, axisFaulted := false }

/-- All that no flow changes. -/
def Fc4.steady (s : Fc4) :=
  (s.now, s.view, s.heights, s.pair.notes, s.link.steady, s.motion.steady, s.results.steady, s.ctl.steady,
    s.resv.heldBox, s.resv.heldLines)

/-- How a flow can change the mode: not at all, to PAUSED where a pause waited for a touch (R188), or from a working
mode to STOPPED (R189). -/
def modeFlow (m m' : Mode) : Prop := m' = m ∨ (m = .pausing ∧ m' = .paused) ∨ (working m = true ∧ m' = .stopped)

theorem modeFlow_trans {a b c : Mode} (h : modeFlow a b) (g : modeFlow b c) : modeFlow a c := by
  rcases h with rfl | ⟨rfl, rfl⟩ | ⟨h, rfl⟩
  · exact g
  · rcases g with rfl | ⟨h, -⟩ | ⟨-, rfl⟩
    · exact .inr (.inl ⟨rfl, rfl⟩)
    · cases h
    · exact .inr (.inr ⟨rfl, rfl⟩)
  · rcases g with rfl | ⟨h, -⟩ | ⟨h, -⟩
    · exact .inr (.inr ⟨h, rfl⟩)
    · cases h
    · cases h

/-- What the predicates of Safety.lean read, beside the steady part. -/
def Fc4.watched (s : Fc4) :=
  (s.ctl.mode, s.ctl.reason, s.work.list, s.results.queue, s.resv.asks, s.resv.shadows, s.motion.axis, s.motion.move,
    s.motion.stopFrom, s.motion.zState, s.meas.stimulus, s.meas.state, s.meas.discharge, s.meas.forceSw, s.meas.retSw)

/-- `t` follows from `s` by flows: the steady part is equal, and every predicate that `s` has, `t` has. -/
structure Flow (s t : Fc4) : Prop where
  steady   : t.steady = s.steady
  reason   : s.ReasonOk → t.ReasonOk
  list     : s.ListOk → t.ListOk
  queue    : s.QueueOk → t.QueueOk
  asks     : tableSorted s.resv.asks = true → tableSorted t.resv.asks = true
  shadows  : (s.resv.shadows.map Shadow.asker).Nodup → (t.resv.shadows.map Shadow.asker).Nodup
  stimulus : s.StimulusOk → t.StimulusOk
  motion   : s.MotionOk → t.MotionOk
  held     : s.HeldOk → t.HeldOk
  mode     : modeFlow s.ctl.mode t.ctl.mode

theorem Flow.refl (s : Fc4) : Flow s s := ⟨rfl, id, id, id, id, id, id, id, id, .inl rfl⟩

theorem Flow.trans {s t u : Fc4} (h : Flow s t) (g : Flow t u) : Flow s u :=
  ⟨g.steady.trans h.steady, g.reason ∘ h.reason, g.list ∘ h.list, g.queue ∘ h.queue, g.asks ∘ h.asks,
    g.shadows ∘ h.shadows, g.stimulus ∘ h.stimulus, g.motion ∘ h.motion, g.held ∘ h.held, modeFlow_trans h.mode g.mode⟩

/-- The same, the later flow first. -/
theorem Flow.after {s t u : Fc4} (g : Flow t u) (h : Flow s t) : Flow s u := h.trans g

/-- What HeldOk reads, but for the rendezvous. -/
def Fc4.heldView (s : Fc4) :=
  (s.ctl.mode, s.ctl.reason, s.ctl.config, s.ctl.number, s.ctl.resetHold, s.ctl.startPos, s.link.join, s.motion.ax,
    s.motion.ay, s.motion.faultSeen, s.motion.axis, s.motion.move, s.motion.stopFrom, s.resv.heldBox, s.resv.heldLines,
    s.meas.forceSw, s.meas.retSw)

theorem Fc4.HeldOk.same {s t : Fc4} (k : s.HeldOk) (h : t.heldView = s.heldView)
    (r : s.ctl.mode = .starting → s.pair.rdv = none → t.pair.rdv = none) : t.HeldOk := by
  simp only [Fc4.heldView, Prod.mk.injEq] at h
  obtain ⟨h1, h2, h3, h4, h5, h6, h7, h8, h9, h10, h11, h12, h13, h14, h15, h16, h17⟩ := h
  have e1 : t.standing = s.standing := by simp only [Fc4.standing, Fc4.geo, Fc4.here, h3, h8, h9]
  have e2 : t.receiving = s.receiving := by simp only [Fc4.receiving, h4, h5]
  have e3 : t.anyAxisFault = s.anyAxisFault := by simp only [Fc4.anyAxisFault, h8, h9]
  have e4 : t.here = s.here := by simp only [Fc4.here, h8, h9]
  have e5 : t.geo = s.geo := by simp only [Fc4.geo, h3]
  have e6 : t.AreaTrusted = s.AreaTrusted := by simp only [Fc4.AreaTrusted, h1, h2]
  have e7 : t.Covers = s.Covers := by funext b; simp only [Fc4.Covers, e1, e4, e5, h11, h12, h13]
  exact ⟨by simpa only [e6, e2, e3, e7, h14] using k.covered, by simpa only [h1, h6, e2, h10, e4, h11, e3] using k.starts,
    by simpa only [h1, h7, h6] using k.joins, fun hm => ⟨r (h1 ▸ hm) (k.unpaired (h1 ▸ hm)).1, h16 ▸ (k.unpaired (h1 ▸ hm)).2.1,
      h17 ▸ (k.unpaired (h1 ▸ hm)).2.2⟩, by simpa only [h15, h16, h17] using k.lines⟩

/-- A change of nothing steady and nothing watched is a flow, where it opens no rendezvous in STARTING. -/
theorem Flow.same {s t : Fc4} (h : t.steady = s.steady) (w : t.watched = s.watched)
    (r : s.ctl.mode = .starting → s.pair.rdv = none → t.pair.rdv = none := by
      first | exact fun _ => id | exact fun _ _ => rfl | (intro _ hr; simp [hr])) : Flow s t := by
  simp only [Fc4.watched, Prod.mk.injEq] at w
  obtain ⟨w1, w2, w3, w4, w5, w6, w7, wm, ws, w8, w9, w10, w11, wf, wr⟩ := w
  have hh : s.HeldOk → t.HeldOk := fun k => k.same (by
    simp only [Fc4.steady, Link.steady, Motion.steady, Prod.mk.injEq] at h
    obtain ⟨-, -, -, -, ⟨-, -, -, -, hj, -⟩, ⟨hax, hay, -, -, hf⟩, -, hc, hb, hl⟩ := h
    have c1 : t.ctl.config = s.ctl.config := by have := congrArg Ctl.config hc; exact this
    have c2 : t.ctl.number = s.ctl.number := by have := congrArg Ctl.number hc; exact this
    have c3 : t.ctl.resetHold = s.ctl.resetHold := by have := congrArg Ctl.resetHold hc; exact this
    have c4 : t.ctl.startPos = s.ctl.startPos := by have := congrArg Ctl.startPos hc; exact this
    simp only [Fc4.heldView, w1, w2, c1, c2, c3, c4, hj, hax, hay, hf, w7, wm, ws, hb, hl, wf, wr]) r
  refine ⟨h, ?_, ?_, ?_, ?_, ?_, ?_, ?_, hh, .inl w1⟩
  · simp only [Fc4.ReasonOk, w1, w2]; exact id
  · simp only [Fc4.ListOk, w3]; exact id
  · simp only [Fc4.QueueOk, w4]; exact id
  · simp only [w5]; exact id
  · simp only [w6]; exact id
  · simp only [Fc4.StimulusOk, Meas.active, Meas.purposeIs, w8, w9, w10, w11]; exact id
  · simp only [Fc4.MotionOk, w7, w8]; exact id

/-! ### Link operations -/

theorem Link.noteRefill_steady (l : Link) (k : FrameKind) : (l.noteRefill k).steady = l.steady := by
  unfold Link.noteRefill; split <;> rfl

theorem Link.noteWithdrawal_steady (l : Link) (k : FrameKind) : (l.noteWithdrawal k).steady = l.steady := by
  unfold Link.noteWithdrawal; split <;> rfl

@[simp] theorem Link.fillRelease_steady (l : Link) (f : ReleaseFill) : (l.fillRelease f).steady = l.steady :=
  Link.noteRefill_steady _ _
@[simp] theorem Link.fillAsk_steady (l : Link) (f : AskFill) : (l.fillAsk f).steady = l.steady :=
  Link.noteRefill_steady _ _
@[simp] theorem Link.fillClaim_steady (l : Link) (f : ClaimFill) : (l.fillClaim f).steady = l.steady :=
  Link.noteRefill_steady _ _
@[simp] theorem Link.fillTouch_steady (l : Link) (f : TouchFill) : (l.fillTouch f).steady = l.steady :=
  Link.noteRefill_steady _ _
@[simp] theorem Link.fillPair_steady (l : Link) (f : PairFill) : (l.fillPair f).steady = l.steady :=
  Link.noteRefill_steady _ _
@[simp] theorem Link.fillResult_steady (l : Link) : l.fillResult.steady = l.steady := rfl
@[simp] theorem Link.withdrawAsk_steady (l : Link) : l.withdrawAsk.steady = l.steady := Link.noteWithdrawal_steady _ _
@[simp] theorem Link.withdrawClaim_steady (l : Link) : l.withdrawClaim.steady = l.steady :=
  Link.noteWithdrawal_steady _ _
@[simp] theorem Link.withdrawPair_steady (l : Link) : l.withdrawPair.steady = l.steady :=
  Link.noteWithdrawal_steady _ _

/-- A change of slots alone is a flow. -/
theorem Flow.ofLink {s : Fc4} {l : Link} (h : l.steady = s.link.steady) : Flow s { s with link := l } :=
  .same (by simp [Fc4.steady, h]) rfl

/-- A change in the Motion Unit of nothing steady, of no axis state and no Z state is a flow. -/
theorem Flow.ofMotion {s : Fc4} {m : Motion} (h : m.steady = s.motion.steady) (ha : m.axis = s.motion.axis)
    (hz : m.zState = s.motion.zState) (hm : m.move = s.motion.move := by rfl)
    (hs : m.stopFrom = s.motion.stopFrom := by rfl) : Flow s { s with motion := m } :=
  .same (by simp [Fc4.steady, h]) (by simp [Fc4.watched, ha, hz, hm, hs])

/-! ### Reservation Unit -/

theorem Fc4.fillReleaseFor_flow (s : Fc4) (c : ReleaseCause) : Flow s (s.fillReleaseFor c) := by
  unfold Fc4.fillReleaseFor; split
  · exact .ofLink (by simp)
  · exact .refl s

theorem Fc4.releaseDue_flow (s : Fc4) (c : ReleaseCause) : Flow s (s.releaseDue c) := by
  unfold Fc4.releaseDue; split
  · exact .same rfl rfl
  · exact s.fillReleaseFor_flow c

theorem Fc4.flushRelease_flow (s : Fc4) : Flow s s.flushRelease := by
  unfold Fc4.flushRelease; split
  · exact (Fc4.fillReleaseFor_flow _ _).after (.same rfl rfl)
  · exact .refl s

theorem Fc4.endAsk_flow (s : Fc4) : Flow s s.endAsk := by
  unfold Fc4.endAsk; split
  · exact .same (by simp only [Fc4.steady]; split <;> simp) rfl
  · exact .refl s

theorem Fc4.reviewAsk_flow (s : Fc4) (b : Box) : Flow s (s.reviewAsk b) := by
  unfold Fc4.reviewAsk; repeat' split
  all_goals first | exact .refl s | exact s.endAsk_flow

theorem Fc4.createAsk_flow (s : Fc4) (c : Claim) : Flow s (s.createAsk c) := by
  unfold Fc4.createAsk; repeat' split
  all_goals first | exact .refl s | exact .same (by simp [Fc4.steady]) rfl

theorem Fc4.noteBlocked_flow (s : Fc4) : Flow s s.noteBlocked := by
  unfold Fc4.noteBlocked; split <;> exact .same rfl rfl

theorem Fc4.claimFails_flow (s : Fc4) (c : Claim) : Flow s (s.claimFails c) :=
  .trans (.trans s.noteBlocked_flow (Fc4.reviewAsk_flow _ _)) (Fc4.createAsk_flow _ _)

theorem Fc4.claimFills_flow (s : Fc4) (c : Claim) : Flow s (s.claimFills c) :=
  (Fc4.reviewAsk_flow _ _).after (.same (by simp [Fc4.steady]) rfl)

theorem Fc4.examine_flow (s : Fc4) : Flow s s.examine := by
  unfold Fc4.examine; repeat' split
  all_goals first | exact .refl s | exact s.claimFails_flow _ | exact s.claimFills_flow _

theorem Fc4.recheck_flow (s : Fc4) : Flow s s.recheck := by
  unfold Fc4.recheck; split
  · exact s.examine_flow
  · exact .refl s

theorem Fc4.offerExamination_flow (s : Fc4) : Flow s s.offerExamination := by
  unfold Fc4.offerExamination; dsimp only; repeat' split
  all_goals first
    | exact .refl s
    | exact .same rfl rfl
    | exact .ofLink (Link.withdrawClaim_steady _)
    | exact (Fc4.claimFails_flow _ _).after (.ofLink (Link.withdrawClaim_steady _))

theorem Fc4.dropClaim_flow (s : Fc4) : Flow s s.dropClaim := .same (by simp [Fc4.steady, Fc4.dropClaim]) rfl

theorem Fc4.withdrawClaim_flow (s : Fc4) : Flow s s.withdrawClaim := by
  unfold Fc4.withdrawClaim; split
  · exact .trans s.dropClaim_flow (Fc4.endAsk_flow _)
  · exact .refl s

/-! What ending an ask and withdrawing a claim leave alone: every block but the Reservation Unit and the slots. -/

@[simp] theorem Fc4.endAsk_now (s : Fc4) : s.endAsk.now = s.now := by unfold Fc4.endAsk; split <;> rfl
@[simp] theorem Fc4.endAsk_view (s : Fc4) : s.endAsk.view = s.view := by unfold Fc4.endAsk; split <;> rfl
@[simp] theorem Fc4.endAsk_work (s : Fc4) : s.endAsk.work = s.work := by unfold Fc4.endAsk; split <;> rfl
@[simp] theorem Fc4.endAsk_pair (s : Fc4) : s.endAsk.pair = s.pair := by unfold Fc4.endAsk; split <;> rfl
@[simp] theorem Fc4.endAsk_motion (s : Fc4) : s.endAsk.motion = s.motion := by unfold Fc4.endAsk; split <;> rfl
@[simp] theorem Fc4.endAsk_heights (s : Fc4) : s.endAsk.heights = s.heights := by unfold Fc4.endAsk; split <;> rfl
@[simp] theorem Fc4.endAsk_meas (s : Fc4) : s.endAsk.meas = s.meas := by unfold Fc4.endAsk; split <;> rfl
@[simp] theorem Fc4.endAsk_results (s : Fc4) : s.endAsk.results = s.results := by unfold Fc4.endAsk; split <;> rfl
@[simp] theorem Fc4.endAsk_ctl (s : Fc4) : s.endAsk.ctl = s.ctl := by unfold Fc4.endAsk; split <;> rfl

@[simp] theorem Fc4.withdrawClaim_now (s : Fc4) : s.withdrawClaim.now = s.now := by
  unfold Fc4.withdrawClaim; split <;> simp [Fc4.dropClaim]
@[simp] theorem Fc4.withdrawClaim_view (s : Fc4) : s.withdrawClaim.view = s.view := by
  unfold Fc4.withdrawClaim; split <;> simp [Fc4.dropClaim]
@[simp] theorem Fc4.withdrawClaim_work (s : Fc4) : s.withdrawClaim.work = s.work := by
  unfold Fc4.withdrawClaim; split <;> simp [Fc4.dropClaim]
@[simp] theorem Fc4.withdrawClaim_pair (s : Fc4) : s.withdrawClaim.pair = s.pair := by
  unfold Fc4.withdrawClaim; split <;> simp [Fc4.dropClaim]
@[simp] theorem Fc4.withdrawClaim_motion (s : Fc4) : s.withdrawClaim.motion = s.motion := by
  unfold Fc4.withdrawClaim; split <;> simp [Fc4.dropClaim]
@[simp] theorem Fc4.withdrawClaim_heights (s : Fc4) : s.withdrawClaim.heights = s.heights := by
  unfold Fc4.withdrawClaim; split <;> simp [Fc4.dropClaim]
@[simp] theorem Fc4.withdrawClaim_meas (s : Fc4) : s.withdrawClaim.meas = s.meas := by
  unfold Fc4.withdrawClaim; split <;> simp [Fc4.dropClaim]
@[simp] theorem Fc4.withdrawClaim_results (s : Fc4) : s.withdrawClaim.results = s.results := by
  unfold Fc4.withdrawClaim; split <;> simp [Fc4.dropClaim]
@[simp] theorem Fc4.withdrawClaim_ctl (s : Fc4) : s.withdrawClaim.ctl = s.ctl := by
  unfold Fc4.withdrawClaim; split <;> simp [Fc4.dropClaim]

theorem Fc4.createClaim_flow (s : Fc4) (c : Claim) : Flow s (s.createClaim c) := by
  unfold Fc4.createClaim
  exact (Fc4.examine_flow _).after (s.withdrawClaim_flow.trans (.same rfl rfl))

theorem Fc4.permitMove_flow (s : Fc4) (w : Requester) (q : Pos) : Flow s (s.permitMove w q) := by
  unfold Fc4.permitMove
  refine .same rfl ?_
  simp only [Fc4.watched]; split <;> rfl

theorem Fc4.requestMove_flow (s : Fc4) (w : Requester) (q : Pos) : Flow s (s.requestMove w q) := by
  unfold Fc4.requestMove; dsimp only; split
  · exact .trans s.withdrawClaim_flow (Fc4.permitMove_flow _ _ _)
  · exact s.createClaim_flow _

theorem Fc4.requestLines_flow (s : Fc4) (tag : Nat) : Flow s (s.requestLines tag) := s.createClaim_flow _

/-- A new shadow leaves at most one for each asker (R62). -/
theorem addShadow_nodup (l : List Shadow) (sh : Shadow) (h : (l.map Shadow.asker).Nodup) :
    ((addShadow l sh).map Shadow.asker).Nodup := by
  simp only [addShadow, List.map_append, List.map_cons, List.map_nil]
  refine List.Nodup.append (h.sublist (List.Sublist.map _ List.filter_sublist)) (by simp) ?_
  simp only [List.disjoint_singleton, List.mem_map, List.mem_filter, not_exists, not_and]
  rintro x ⟨-, hx⟩ e
  simp [e] at hx

theorem Fc4.settleAsks_flow (s : Fc4) : Flow s s.settleAsks := by
  refine ⟨rfl, id, id, id, fun _ => rfl, fun h => ?_, id, id, fun k => k.same rfl fun _ => id, .inl rfl⟩
  suffices ∀ (as : List (Nat × Box)) (l : List Shadow), (l.map Shadow.asker).Nodup →
      ((as.foldl (fun acc a => addShadow acc ⟨a.1, a.2, s.now + shadowTime⟩) l).map Shadow.asker).Nodup from
    this _ _ h
  intro as
  induction as with
  | nil => exact fun _ hl => hl
  | cons a as ih => exact fun l hl => ih _ (addShadow_nodup l _ hl)

theorem Fc4.answerAsks_flow (s : Fc4) (c : Nat → ReleaseCause) : Flow s (s.answerAsks c) :=
  .trans (s.releaseDue_flow _) (Fc4.settleAsks_flow _)

end Sys2Proof.Machine
end

