-- ==== Sys2Proof/Laws/Keyed.lean ====
section
/-! SUPPORT. Keyed tables: reading after writing, and the canonical form kept by every operation. -/

namespace Sys2Proof.Machine

variable {β : Type}

theorem tableSorted_iff (t : List (Nat × β)) : tableSorted t = true ↔ t.Pairwise (fun a b => a.1 < b.1) := by
  simp [tableSorted]

/-- The keys of a table after a write are the old ones and the written one. -/
theorem mem_tablePut {k : Nat} {v : β} {t : List (Nat × β)} {p : Nat × β} (h : p ∈ tablePut k v t) :
    p = (k, v) ∨ p ∈ t := by
  induction t with
  | nil => simpa [tablePut] using h
  | cons q t ih =>
    obtain ⟨j, w⟩ := q
    simp only [tablePut] at h
    split at h
    · simpa using h
    · split at h
      · simp only [List.mem_cons] at h ⊢; tauto
      · simp only [List.mem_cons] at h ⊢
        rcases h with h | h
        · exact .inr (.inl h)
        · exact (ih h).imp id .inr

theorem tablePut_sorted (k : Nat) (v : β) {t : List (Nat × β)} (h : tableSorted t = true) :
    tableSorted (tablePut k v t) = true := by
  rw [tableSorted_iff] at *
  induction t with
  | nil => simp [tablePut]
  | cons q t ih =>
    obtain ⟨j, w⟩ := q
    simp only [List.pairwise_cons] at h
    simp only [tablePut]
    split
    · rename_i hk
      simp only [List.pairwise_cons, List.mem_cons, forall_eq_or_imp]
      exact ⟨⟨hk, fun p hp => hk.trans (h.1 p hp)⟩, h⟩
    · split
      · rename_i hj
        simp only [List.pairwise_cons]
        exact ⟨fun p hp => hj ▸ h.1 p hp, h.2⟩
      · simp only [List.pairwise_cons]
        refine ⟨fun p hp => ?_, ih h.2⟩
        rcases mem_tablePut hp with rfl | hp
        · simp only; omega
        · exact h.1 p hp

theorem tableDrop_sublist (k : Nat) (t : List (Nat × β)) : (tableDrop k t).Sublist t := by
  induction t with
  | nil => exact .slnil
  | cons q t ih =>
    simp only [tableDrop]
    split
    · exact ih.cons q
    · exact ih.cons_cons q

theorem tableDrop_sorted (k : Nat) {t : List (Nat × β)} (h : tableSorted t = true) :
    tableSorted (tableDrop k t) = true := by
  rw [tableSorted_iff] at *
  exact h.sublist (tableDrop_sublist k t)

theorem tableMap_sorted (f : β → β) {t : List (Nat × β)} (h : tableSorted t = true) :
    tableSorted (tableMap f t) = true := by
  rw [tableSorted_iff] at *
  simpa [tableMap, List.pairwise_map] using h

theorem mem_of_tableGet {k : Nat} {v : β} {t : List (Nat × β)} (h : tableGet k t = some v) : (k, v) ∈ t := by
  induction t with
  | nil => simp [tableGet] at h
  | cons q t ih =>
    obtain ⟨j, w⟩ := q
    simp only [tableGet] at h
    split at h
    · rename_i hj; simp_all
    · exact List.mem_cons_of_mem _ (ih h)

/-- A read after a write to the same key gives what was written. -/
@[simp] theorem tableGet_tablePut_self (k : Nat) (v : β) (t : List (Nat × β)) : tableGet k (tablePut k v t) = some v := by
  induction t with
  | nil => simp [tablePut, tableGet]
  | cons q t ih =>
    simp only [tablePut]
    split
    · simp [tableGet]
    · split
      · simp [tableGet]
      · rename_i hj; simp [tableGet, hj, ih]

/-- A write leaves every other key alone. -/
theorem tableGet_tablePut_of_ne {k j : Nat} (h : j ≠ k) (v : β) (t : List (Nat × β)) :
    tableGet j (tablePut k v t) = tableGet j t := by
  induction t with
  | nil => simp [tablePut, tableGet, h.symm]
  | cons q t ih =>
    obtain ⟨i, w⟩ := q
    simp only [tablePut]
    split
    · simp only [tableGet, h.symm, if_false]
    · split
      · rename_i hi; simp [tableGet, hi, h.symm]
      · simp only [tableGet, ih]

@[simp] theorem tableGet_tableDrop_self (k : Nat) (t : List (Nat × β)) : tableGet k (tableDrop k t) = none := by
  induction t with
  | nil => rfl
  | cons q t ih =>
    simp only [tableDrop]
    split
    · exact ih
    · rename_i hj; simp [tableGet, hj, ih]

theorem tableGet_tableDrop_of_ne {k j : Nat} (h : j ≠ k) (t : List (Nat × β)) :
    tableGet j (tableDrop k t) = tableGet j t := by
  induction t with
  | nil => rfl
  | cons q t ih =>
    obtain ⟨i, w⟩ := q
    simp only [tableDrop]
    split
    · rename_i hi; simp [tableGet, hi, h.symm, ih]
    · simp only [tableGet, ih]

/-- A table mapped reads as the mapped value. -/
theorem tableGet_tableMap (k : Nat) (f : β → β) (t : List (Nat × β)) :
    tableGet k (tableMap f t) = (tableGet k t).map f := by
  induction t with
  | nil => rfl
  | cons q t ih =>
    simp only [tableMap, List.map_cons, tableGet] at *
    split
    · rfl
    · exact ih

/-- A sample keeps the Height Table's form, every count 1 to 7 (R130, R132). -/
theorem takeSample_ok {t : List (Nat × HeightCell)} (pad : Pos) (h : Nat)
    (ht : tableSorted t = true ∧ ∀ c ∈ t, 1 ≤ c.2.count ∧ c.2.count ≤ 7) :
    tableSorted (takeSample t pad h) = true ∧ ∀ c ∈ takeSample t pad h, 1 ≤ c.2.count ∧ c.2.count ≤ 7 := by
  refine ⟨tablePut_sorted _ _ ht.1, fun c hc => ?_⟩
  rcases mem_tablePut hc with rfl | hc
  · simp only [blend]
    split
    · simp
    · split
      · simp only; omega
      · simp
  · exact ht.2 c hc

end Sys2Proof.Machine
end

