-- ==== Sys2Proof/Laws/TouchFlow.lean ====
section
/-! SUPPORT. The flows of chapter 04 (entries, results, starting, yields, stops) and chapter 05 (rendezvous): each
is a `Flow`. -/

namespace Sys2Proof.Machine

/-! ### Lists of entries -/

theorem Fc4.ListOk.of_sublist {s t : Fc4} (h : s.ListOk) (hs : t.work.list.Sublist s.work.list) : t.ListOk :=
  ⟨hs.length_le.trans h.1, h.2.1.sublist (hs.map _), h.2.2.1.sublist (hs.filterMap _),
    fun e he => h.2.2.2 e (hs.subset he)⟩

theorem Fc4.ListOk.of_map {s t : Fc4} (g : Entry → Entry) (hid : ∀ e, (g e).id = e.id)
    (ht : ∀ e, (g e).terms = e.terms) (hd : ∀ e, (g e).deferCount = e.deferCount) (h : s.ListOk)
    (hs : t.work.list = s.work.list.map g) : t.ListOk := by
  refine ⟨by simpa [hs] using h.1, ?_, ?_, ?_⟩
  · simpa [hs, Function.comp_def, hid] using h.2.1
  · simpa [hs, List.filterMap_map, Function.comp_def, ht] using h.2.2.1
  · simp only [hs, List.mem_map]
    rintro _ ⟨e, he, rfl⟩
    rw [hd]; exact h.2.2.2 e he

/-- The change of a list that keeps every predicate is a flow. -/
theorem Flow.ofList {s : Fc4} {f : List Entry → List Entry} (h : s.ListOk → (s.mapList f).ListOk) :
    Flow s (s.mapList f) := ⟨rfl, id, h, id, id, id, id, id, fun k => k.same rfl fun _ => id, .inl rfl⟩

theorem removeEntry_sublist (id : Nat) (l : List Entry) : (removeEntry id l).Sublist l := List.filter_sublist

theorem Fc4.removeEntry_flow (s : Fc4) (id : Nat) : Flow s (s.mapList (removeEntry id)) :=
  .ofList fun h => h.of_sublist (removeEntry_sublist _ _)

theorem Fc4.setEntry_flow (s : Fc4) (id : Nat) (f : Entry → Entry) (hi : ∀ e, (f e).id = e.id)
    (ht : ∀ e, (f e).terms = e.terms) (hd : ∀ e, (f e).deferCount = e.deferCount) :
    Flow s (s.mapList (setEntry id f)) :=
  .ofList fun h => h.of_map (fun e => if e.id = id then f e else e) (by intro e; split <;> simp [hi])
    (by intro e; split <;> simp [ht]) (by intro e; split <;> simp [hd]) rfl

theorem Fc4.mapTouch_flow (s : Fc4) (f : TouchRecord → TouchRecord) : Flow s (s.mapTouch f) := .same rfl rfl
theorem Fc4.mapRdv_flow (s : Fc4) (f : Rendezvous → Rendezvous) : Flow s (s.mapRdv f) := .same rfl rfl
theorem Fc4.clearTouch_flow (s : Fc4) : Flow s s.clearTouch := .same rfl rfl
theorem Fc4.refreshWaiting_flow (s : Fc4) : Flow s s.refreshWaiting := .same rfl rfl

/-! ### Results -/

theorem Fc4.testPacking_flow (s : Fc4) : Flow s s.testPacking := by
  unfold Fc4.testPacking; split
  · exact .ofLink rfl
  · exact .refl s

@[simp] theorem Fc4.testPacking_results (s : Fc4) : s.testPacking.results = s.results := by
  unfold Fc4.testPacking; split <;> rfl

theorem Fc4.joinQueue_queue (s : Fc4) (r : ResultRecord) :
    (s.joinQueue r).results.queue = s.results.queue ++ [Queued.mk r s.now] := by simp [Fc4.joinQueue]

theorem Fc4.joinQueue_flow (s : Fc4) (r : ResultRecord) (h : s.results.queue.length < queueMax) :
    Flow s (s.joinQueue r) := by
  unfold Fc4.joinQueue
  refine (Fc4.testPacking_flow _).after ⟨rfl, id, id, fun _ => ?_, id, id, id, id, fun k => k.same rfl fun _ => id, .inl rfl⟩
  simp only [Fc4.QueueOk, List.length_append, List.length_singleton]; omega

theorem Fc4.joinAll_flow (rs : List ResultRecord) :
    ∀ s : Fc4, s.results.queue.length + rs.length ≤ queueMax → Flow s (rs.foldl Fc4.joinQueue s) := by
  induction rs with
  | nil => exact fun s _ => .refl s
  | cons r rs ih =>
    intro s h
    simp only [List.length_cons] at h
    refine (s.joinQueue_flow r (by omega)).trans (ih _ ?_)
    simp only [s.joinQueue_queue, List.length_append, List.length_singleton]; omega

theorem Fc4.produceResult_flow (s : Fc4) (id : Nat) (r : ResultRecord) : Flow s (s.produceResult id r) := by
  unfold Fc4.produceResult; split
  · rename_i h
    simp only [Fc4.queueRoom, Bool.and_eq_true, decide_eq_true_eq] at h
    exact (s.removeEntry_flow id).trans (Fc4.joinQueue_flow _ _ h.1)
  · exact s.setEntry_flow _ _ (fun _ => rfl) (fun _ => rfl) (fun _ => rfl)

theorem takeFinished_sublist (l : List Entry) : ∀ n, (takeFinished l n).1.Sublist l := by
  induction l with
  | nil => exact fun n => List.Sublist.slnil
  | cons e l ih =>
    intro n
    unfold takeFinished
    split
    · exact (ih _).cons e
    · exact (ih _).cons_cons e

theorem takeFinished_length (l : List Entry) : ∀ n, (takeFinished l n).2.length ≤ n := by
  induction l with
  | nil => exact fun n => by simp [takeFinished]
  | cons e l ih =>
    intro n
    unfold takeFinished
    split
    · exact Nat.succ_le_succ (ih _)
    · exact ih _

theorem Fc4.handOver_flow (s : Fc4) : Flow s s.handOver := by
  unfold Fc4.handOver
  by_cases hq : s.results.queue.length ≤ queueMax
  · refine (Fc4.joinAll_flow _ _ ?_).after (.ofList fun h => h.of_sublist (takeFinished_sublist _ _))
    have := takeFinished_length s.work.list (queueMax - s.results.queue.length)
    simp only [Fc4.mapList_results]; omega
  · have h0 : queueMax - s.results.queue.length = 0 := by omega
    have hr : (takeFinished s.work.list (queueMax - s.results.queue.length)).2 = [] := by
      have := takeFinished_length s.work.list (queueMax - s.results.queue.length)
      rw [h0] at this ⊢; exact List.length_eq_zero_iff.mp (by omega)
    simp only [hr, List.foldl_nil]
    exact .ofList fun h => h.of_sublist (takeFinished_sublist _ _)

theorem Fc4.finishTouch_flow (s : Fc4) (o : TouchOutcome) : Flow s (s.finishTouch o) := by
  unfold Fc4.finishTouch; split
  · exact s.clearTouch_flow.trans (Fc4.produceResult_flow _ _ _)
  · exact s.clearTouch_flow

theorem Fc4.requeueTouch_flow (s : Fc4) : Flow s s.requeueTouch := by
  unfold Fc4.requeueTouch; split
  · exact s.clearTouch_flow.trans (.ofList fun h => h.of_map
      (fun e => if e.st = .active then { e with st := .queued } else e)
      (by intro e; split <;> rfl) (by intro e; split <;> rfl)
      (by intro e; split <;> rfl) rfl)
  · exact .refl s

/-! ### Deferral (R76) -/

theorem Fc4.front_mem {s : Fc4} {e : Entry} (h : s.front = some e) : e ∈ s.work.list := List.mem_of_find?_eq_some h

theorem Fc4.activeEntry_mem {s : Fc4} {e : Entry} (h : s.activeEntry = some e) : e ∈ s.work.list :=
  List.mem_of_find?_eq_some h

theorem Fc4.deferAllowed_lt {s : Fc4} {e : Entry} (h : s.deferAllowed e = true) : e.deferCount < deferMax := by
  simp only [Fc4.deferAllowed, Bool.and_eq_true, decide_eq_true_eq] at h; exact h.1

/-- An entry of the list is none of those that its removal leaves, and neither is its tag. -/
theorem removeEntry_tag {l : List Entry} {e : Entry} {tag : Nat} (he : e ∈ l) (ids : (l.map Entry.id).Nodup)
    (tags : (l.filterMap (fun e => e.terms.map PairTerms.tag)).Nodup) (ht : e.terms.map PairTerms.tag = some tag) :
    tag ∉ (removeEntry e.id l).filterMap (fun e => e.terms.map PairTerms.tag) := by
  induction l with
  | nil => simp at he
  | cons a l ih =>
    simp only [List.map_cons, List.nodup_cons, List.mem_map, not_exists, not_and] at ids
    rcases List.mem_cons.mp he with rfl | hl
    · have hall : removeEntry e.id (e :: l) = l := by
        simp only [removeEntry, List.filter_cons, decide_true, Bool.not_true, Bool.false_eq_true, if_false]
        exact List.filter_eq_self.mpr fun x hx => by simpa using ids.1 x hx
      rw [hall]
      simp only [List.filterMap_cons, ht, List.nodup_cons] at tags
      exact tags.1
    · have hne : ¬ a.id = e.id := fun h => ids.1 e hl h.symm
      have hk : removeEntry e.id (a :: l) = a :: removeEntry e.id l := by simp [removeEntry, hne]
      rw [hk]
      cases ha : a.terms.map PairTerms.tag with
      | none =>
        simp only [List.filterMap_cons, ha] at tags ⊢
        exact ih hl ids.2 tags
      | some x =>
        simp only [List.filterMap_cons, ha, List.nodup_cons] at tags ⊢
        simp only [List.mem_cons, not_or]
        refine ⟨?_, ih hl ids.2 tags.2⟩
        rintro rfl
        exact tags.1 (List.mem_filterMap.mpr ⟨e, hl, ht⟩)

theorem Fc4.deferEntry_flow (s : Fc4) (e : Entry) (he : e ∈ s.work.list) (hd : e.deferCount < deferMax) :
    Flow s (s.deferEntry e) := by
  refine s.clearTouch_flow.trans (.ofList fun h => ?_)
  obtain ⟨hlen, hids, htags, hdef⟩ := h
  simp only [Fc4.clearTouch_work] at hlen hids htags hdef
  have hsub := removeEntry_sublist e.id s.work.list
  have hnot : ∀ x ∈ removeEntry e.id s.work.list, x.id ≠ e.id := by
    intro x hx; simpa [removeEntry] using (List.mem_filter.mp hx).2
  refine ⟨?_, ?_, ?_, ?_⟩
  · have hlt : (removeEntry e.id s.work.list).length < s.work.list.length := by
      refine lt_of_le_of_ne hsub.length_le fun heq => ?_
      have := hsub.eq_of_length heq
      exact hnot e (by rw [this]; exact he) rfl
    simp only [Fc4.mapList_work, Fc4.clearTouch_work, List.length_append, List.length_singleton]; omega
  · simp only [Fc4.mapList_work, Fc4.clearTouch_work, List.map_append, List.map_cons, List.map_nil]
    refine List.Nodup.append (hids.sublist (hsub.map _)) (by simp) ?_
    simp only [List.disjoint_singleton, List.mem_map, not_exists, not_and]
    exact hnot
  · simp only [Fc4.mapList_work, Fc4.clearTouch_work, List.filterMap_append]
    cases ht : e.terms.map PairTerms.tag with
    | none =>
      simp only [List.filterMap_cons, ht, List.filterMap_nil, List.append_nil]
      exact htags.sublist (hsub.filterMap _)
    | some tag =>
      simp only [List.filterMap_cons, ht, List.filterMap_nil]
      refine List.Nodup.append (htags.sublist (hsub.filterMap _)) (by simp) ?_
      simp only [List.disjoint_singleton]
      exact removeEntry_tag he hids htags ht
  · simp only [Fc4.mapList_work, Fc4.clearTouch_work, List.mem_append, List.mem_singleton]
    rintro x (hx | rfl)
    · exact hdef x (hsub.subset hx)
    · exact hd

/-! ### Starting (R73 to R80, R90) -/

theorem Fc4.enterDescent_flow (s : Fc4) (e : Entry) : Flow s (s.enterDescent e) := .same rfl rfl

theorem Fc4.enterClaim_flow (s : Fc4) (e : Entry) : Flow s (s.enterClaim e) := by
  unfold Fc4.enterClaim; split
  · exact s.enterDescent_flow e
  · exact s.requestMove_flow _ _

theorem Fc4.activate_flow (s : Fc4) (e : Entry) (h : s.ctl.mode = .running) : Flow s (s.activate e) := by
  unfold Fc4.activate
  exact (Fc4.enterClaim_flow _ _).after
    ((s.setEntry_flow e.id (fun x => { x with st := .active }) (fun _ => rfl) (fun _ => rfl) (fun _ => rfl)).trans
      (.same rfl rfl (by simp [h])))

theorem Fc4.canStart_running {s : Fc4} (h : s.canStart = true) : s.ctl.mode = .running := by
  simp only [Fc4.canStart, Bool.and_eq_true, decide_eq_true_eq] at h; exact h.1.1.1.1

theorem Fc4.startDecision_defer {s : Fc4} {e : Entry} (h : s.startDecision e = .defer) : s.deferAllowed e = true := by
  unfold Fc4.startDecision at h
  repeat' split at h
  all_goals simp_all

theorem startTurns_flow (n : Nat) : ∀ s : Fc4, Flow s (startTurns n s) := by
  induction n with
  | zero => exact Flow.refl
  | succ n ih =>
    intro s
    unfold startTurns
    split
    · rename_i hc
      split
      · exact .refl s
      · rename_i e he
        split
        · exact s.activate_flow e (Fc4.canStart_running hc)
        · rename_i hd
          exact (s.deferEntry_flow e (Fc4.front_mem he) (Fc4.deferAllowed_lt (Fc4.startDecision_defer hd))).trans (ih _)
        · exact (s.produceResult_flow _ _).trans (ih _)
    · exact .refl s

theorem Fc4.testStart_flow (s : Fc4) : Flow s s.testStart := (startTurns_flow _ s).trans (Fc4.refreshWaiting_flow _)

/-! ### Yields (R58 to R61) -/

theorem Fc4.pauseCheck_flow (s : Fc4) : Flow s s.pauseCheck := by
  unfold Fc4.pauseCheck; split
  · rename_i h
    refine ⟨rfl, fun hr => ?_, id, id, id, id, id, id, fun k => ?_, .inr (.inl ⟨h.1, rfl⟩)⟩
    · have := h.1
      simp_all [Fc4.ReasonOk]
    · exact ⟨fun _ => k.covered (.inl (by simp [h.1, working])), by simp, by simp, by simp, k.lines⟩
  · exact .refl s

theorem Fc4.yieldEndsTouch_flow (s : Fc4) : Flow s s.yieldEndsTouch := by
  unfold Fc4.yieldEndsTouch; split
  · exact s.finishTouch_flow _
  · exact s.requeueTouch_flow

theorem Fc4.yieldDrops_flow (s : Fc4) : Flow s s.yieldDrops := by
  unfold Fc4.yieldDrops; split
  · refine (Fc4.requeueTouch_flow _).after (s.withdrawClaim_flow.trans ?_)
    have hm : s.withdrawClaim.motion = s.motion := s.withdrawClaim_motion
    generalize s.withdrawClaim = u at hm ⊢
    exact .ofMotion (by rw [hm]; rfl) (by rw [hm]) (by rw [hm]) (by rw [hm]) (by rw [hm])
  · exact .refl s

theorem Fc4.yieldClears_flow (s : Fc4) : Flow s s.yieldClears := by
  unfold Fc4.yieldClears
  exact s.yieldDrops_flow.trans (.ofMotion rfl rfl rfl)

theorem Fc4.beginYield_flow (s : Fc4) : Flow s s.beginYield := by
  unfold Fc4.beginYield; dsimp only; split
  · exact .after (Fc4.testStart_flow _) (.after (Fc4.answerAsks_flow _ _) (.after (Fc4.pauseCheck_flow _) s.yieldClears_flow))
  · exact .after (Fc4.requestMove_flow _ _ _) (.after (Fc4.pauseCheck_flow _) s.yieldClears_flow)

theorem Fc4.yieldIfReady_flow (s : Fc4) : Flow s s.yieldIfReady := by
  unfold Fc4.yieldIfReady; split
  · exact s.beginYield_flow
  · exact .refl s

theorem Fc4.yieldFallsDue_flow (s : Fc4) : Flow s s.yieldFallsDue := by
  unfold Fc4.yieldFallsDue
  exact (Fc4.yieldIfReady_flow _).after ((Fc4.refreshWaiting_flow _).after (.same rfl rfl))

/-! ### Lifts and stops (R122, R191) -/

/-- A lift is no flow of a measurement under way: its stimulus may be on (R158). -/
theorem Fc4.beginLift_flow (s : Fc4) (h : s.StimulusOk → s.meas.active = false) : Flow s s.beginLift := by
  refine ⟨rfl, id, id, id, id, id, fun hs => ⟨hs.1, fun ha => ?_⟩, fun hm => ⟨fun ha => ?_, fun hl => ?_⟩,
    fun k => k.same rfl fun _ => id, .inl rfl⟩
  · have := h hs
    simp_all
  · simp only [Fc4.beginLift_motion, Motion.lift] at ha ⊢
    simp [hm.1 ha]
  · simp only [Fc4.beginLift_motion, Motion.lift, lowered] at hl
    split at hl <;> simp at hl

theorem Fc4.goLift_flow (s : Fc4) (h : s.StimulusOk → s.meas.active = false) : Flow s s.goLift :=
  (s.mapTouch_flow _).trans (Fc4.beginLift_flow _ h)

theorem Meas.not_active_of_idle {m : Meas} (h : m.state = .idle) : m.active = false := by
  simp [Meas.active, Meas.purposeIs, h]

theorem Fc4.stopReservation_flow (s : Fc4) : Flow s s.stopReservation := by
  unfold Fc4.stopReservation; dsimp only
  refine (s.withdrawClaim_flow.trans (Fc4.endAsk_flow _)).trans
    ⟨rfl, id, id, id, fun _ => rfl, id, id, id, fun k => k.same rfl fun _ => id, .inl rfl⟩

theorem Fc4.stopPair_flow (s : Fc4) : Flow s s.stopPair := by
  unfold Fc4.stopPair; split
  · exact .same (by simp [Fc4.steady]) rfl
  · exact .refl s

/-- After an abort the stimulus is off, and no measurement is under way (R142, R161). -/
theorem Meas.abort_off (m : Meas) (now : Time) : (m.abort now).stimulus = none ∧ (m.abort now).active = false := by
  unfold Meas.abort Meas.abortState
  simp only [Meas.openAll, Meas.openLines, Meas.goDischarging]
  constructor
  · repeat' split
    all_goals rfl
  · cases hs : m.state <;> cases hd : m.discharge <;> simp [Meas.active, Meas.purposeIs]
    rename_i d
    cases hp : d.purpose <;> simp [hp]

/-- The line switches as before, or all open (R161). -/
theorem Meas.abort_switches (m : Meas) (now : Time) :
    ((m.abort now).forceSw = none ∨ (m.abort now).forceSw = m.forceSw) ∧
    ((m.abort now).retSw = none ∨ (m.abort now).retSw = m.retSw) := by
  unfold Meas.abort Meas.abortState
  simp only [Meas.openAll, Meas.openLines, Meas.goDischarging]
  constructor <;> repeat' split
  all_goals simp

/-- A change of the measurement record that closes neither force nor return switch keeps the held area and lines. -/
theorem Fc4.HeldOk.ofMeas {s : Fc4} {m : Meas} (k : s.HeldOk) (f : m.forceSw = none ∨ m.forceSw = s.meas.forceSw)
    (r : m.retSw = none ∨ m.retSw = s.meas.retSw) : ({ s with meas := m } : Fc4).HeldOk := by
  refine ⟨k.covered, k.starts, k.joins, fun h => ⟨(k.unpaired h).1, ?_, ?_⟩, fun l e => ?_, fun l e => ?_⟩
  · rcases f with f | f <;> simp [f, (k.unpaired h).2.1]
  · rcases r with r | r <;> simp [r, (k.unpaired h).2.2]
  · rcases f with f | f <;> simp only [f] at e
    · cases e
    · exact k.lines.1 l e
  · rcases r with r | r <;> simp only [r] at e
    · cases e
    · exact k.lines.2 l e

theorem Fc4.abort_flow (s : Fc4) (now : Time) : Flow s { s with meas := s.meas.abort now } := by
  have h := s.meas.abort_off now
  have w := s.meas.abort_switches now
  exact ⟨rfl, id, id, id, id, id, fun _ => ⟨by simp [h.1], by simp [h.2]⟩, id, fun k => k.ofMeas w.1 w.2, .inl rfl⟩

theorem Motion.stopAxes_zState (m : Motion) : m.stopAxes.zState = m.zState := by
  unfold Motion.stopAxes; dsimp only; split <;> rfl

theorem Motion.stop_steady (m : Motion) (b : Bool) : (m.stopAxes.stopZ b).steady = m.steady := by
  have h1 : m.stopAxes.steady = m.steady := by unfold Motion.stopAxes; dsimp only; split <;> rfl
  rw [← h1]; unfold Motion.stopZ; repeat' split
  all_goals rfl

/-- The axes and Z at a stop keep the rule of R116. -/
theorem Motion.stop_motionOk (m : Motion) (b : Bool)
    (h : (m.axis = .moving → m.zState = .raised) ∧ (lowered m.zState = true → m.axis = .standing)) :
    ((m.stopAxes.stopZ b).axis = .moving → (m.stopAxes.stopZ b).zState = .raised) ∧
    (lowered (m.stopAxes.stopZ b).zState = true → (m.stopAxes.stopZ b).axis = .standing) := by
  have ha : m.stopAxes.axis ≠ .moving := by
    unfold Motion.stopAxes; dsimp only; split
    · simp
    · assumption
  have hz : (m.stopAxes.stopZ b).axis = m.stopAxes.axis := by
    unfold Motion.stopZ; repeat' split
    all_goals rfl
  refine ⟨fun hm => absurd (hz ▸ hm) ha, fun hl => ?_⟩
  have hl' : lowered m.zState = true := by
    rw [← m.stopAxes_zState]
    unfold Motion.stopZ at hl
    repeat' split at hl
    all_goals simp_all [Motion.lift, lowered]
  rw [hz]
  have hst := h.2 hl'
  unfold Motion.stopAxes; simp [hst]

theorem Motion.stop_axes (m : Motion) (b : Bool) :
    let n := m.stopAxes.stopZ b
    n.ax = m.ax ∧ n.ay = m.ay ∧ n.faultSeen = m.faultSeen ∧ n.move = m.move ∧
    (m.axis = .moving → n.axis = .stopping ∧ n.stopFrom = some ⟨m.ax.pos, m.ay.pos⟩) ∧
    (m.axis ≠ .moving → n.axis = m.axis ∧ n.stopFrom = m.stopFrom) := by
  have h1 : ∀ m : Motion, (m.stopZ b).ax = m.ax ∧ (m.stopZ b).ay = m.ay ∧ (m.stopZ b).faultSeen = m.faultSeen ∧
      (m.stopZ b).move = m.move ∧ (m.stopZ b).axis = m.axis ∧ (m.stopZ b).stopFrom = m.stopFrom := by
    intro m; unfold Motion.stopZ; repeat' split
    all_goals exact ⟨rfl, rfl, rfl, rfl, rfl, rfl⟩
  obtain ⟨a1, a2, a3, a4, a5, a6⟩ := h1 m.stopAxes
  dsimp only
  rw [a1, a2, a3, a4, a5, a6]
  unfold Motion.stopAxes; dsimp only; split <;> simp_all

theorem between_iff {a b v : Nat} : between a b v = true ↔ min a b ≤ v ∧ v ≤ max a b := by simp [between]

theorem inside_iff {a b : Box} :
    inside a b = true ↔ b.xmin ≤ a.xmin ∧ a.xmax ≤ b.xmax ∧ b.ymin ≤ a.ymin ∧ a.ymax ≤ b.ymax := by
  simp [inside, and_assoc]

/-- What is left of a move is swept inside what the whole move sweeps (R42). -/
theorem sweptBox_rest {g : ImageConfig} {p q v : Pos} {b : Box} (h : inside (sweptBox g p q) b = true)
    (hv : spanned p q v = true) : inside (sweptBox g v q) b = true ∧ spanned v q v = true := by
  simp only [spanned, Bool.and_eq_true, between_iff, inside_iff, sweptBox] at *
  omega

/-- The axes' stop keeps the held area: the carriage stays within what is left of its move (R42, R115). -/
theorem Fc4.HeldOk.stop {s : Fc4} (k : s.HeldOk) (b : Bool) {w : Work} :
    ({ s with work := w, motion := s.motion.stopAxes.stopZ b } : Fc4).HeldOk := by
  obtain ⟨m1, m2, m3, m4, m5, m6⟩ := s.motion.stop_axes b
  generalize s.motion.stopAxes.stopZ b = n at *
  have e1 : ({ s with work := w, motion := n } : Fc4).standing = s.standing := by
    simp only [Fc4.standing, Fc4.geo, Fc4.here, m1, m2]
  have e2 : ({ s with work := w, motion := n } : Fc4).here = s.here := by simp only [Fc4.here, m1, m2]
  have e3 : ({ s with work := w, motion := n } : Fc4).anyAxisFault = s.anyAxisFault := by
    simp only [Fc4.anyAxisFault, m1, m2]
  refine ⟨fun h => ?_, fun h hp => ?_, k.joins, k.unpaired, k.lines⟩
  · obtain ⟨hr, hf, bx, hb, hi, hm, hs⟩ := k.covered h
    refine ⟨hr, e3.trans hf, bx, hb, e1 ▸ hi, fun ha => ?_, fun ha => ?_⟩
    · by_cases hx : s.motion.axis = .moving
      · simp [(m5 hx).1] at ha
      · exact absurd ((m6 hx).1 ▸ ha) hx
    · by_cases hx : s.motion.axis = .moving
      · obtain ⟨mv, h1, h2, h3⟩ := hm hx
        have := sweptBox_rest h2 h3
        exact ⟨mv, s.here, m4.trans h1, (m5 hx).2, this.1, e2.symm ▸ this.2⟩
      · obtain ⟨mv, f, h1, h2, h3, h4⟩ := hs ((m6 hx).1 ▸ ha)
        exact ⟨mv, f, m4.trans h1, (m6 hx).2.trans h2, h3, e2.symm ▸ h4⟩
  · obtain ⟨hr, hs⟩ := k.starts h hp
    refine ⟨hr, hs.imp (m3.trans ·) fun ⟨h1, h2, h3⟩ => ⟨h1.trans (by rw [e2]), ?_, e3.trans h3⟩⟩
    exact ((m6 (by simp [h2])).1).trans h2

theorem Fc4.stopBlocks_flow (s : Fc4) (r : StopReason) (hr : r ≠ .noReason) (hw : working s.ctl.mode = true) :
    Flow s (s.stopBlocks r) := by
  unfold Fc4.stopBlocks; dsimp only
  generalize hs1 : ({ s with ctl := { s.ctl with mode := .stopped, reason := r, axisFaulted := _ } } : Fc4) = s1
  have f1 : Flow s s1 := by
    subst hs1
    refine ⟨rfl, fun _ => by simp [Fc4.ReasonOk, hr], id, id, id, id, id, id, fun k => ?_, .inr (.inr ⟨hw, rfl⟩)⟩
    exact ⟨fun _ => k.covered (.inl hw), by simp, by simp, by simp, k.lines⟩
  have f2 : Flow s1 s1.stopReservation.stopPair.requeueTouch :=
    .after (Fc4.requeueTouch_flow _) (.after (Fc4.stopPair_flow _) s1.stopReservation_flow)
  generalize s1.stopReservation.stopPair.requeueTouch = s2 at f2 ⊢
  have hoff := s2.meas.abort_off s2.now
  have f3 : Flow s2 { s2 with
      work := { s2.work with waiting := false }, meas := s2.meas.abort s2.now
      motion := s2.motion.stopAxes.stopZ (decide ((s2.meas.abort s2.now).state = MeasState.idle)) } :=
    ⟨by simp [Fc4.steady, Motion.stop_steady], id, id, id, id, id,
      fun _ => ⟨by simp [hoff.1], by simp [hoff.2]⟩, fun h => Motion.stop_motionOk _ _ h,
      fun k => (k.stop _).ofMeas (s2.meas.abort_switches s2.now).1 (s2.meas.abort_switches s2.now).2, .inl rfl⟩
  exact f1.trans (f2.trans f3)

/-- The RELEASE of an entry to STOPPED fills a slot or waits, and no more. -/
theorem Fc4.enterStopped_cases (s : Fc4) (r : StopReason) :
    s.enterStopped r = s.stopBlocks r ∨ s.enterStopped r = (s.stopBlocks r).releaseDue .carriageStands := by
  unfold Fc4.enterStopped; dsimp only; split
  · exact .inl rfl
  · exact .inr rfl

theorem Fc4.enterStopped_flow_blocks (s : Fc4) (r : StopReason) : Flow (s.stopBlocks r) (s.enterStopped r) := by
  rcases s.enterStopped_cases r with h | h <;> rw [h]
  · exact .refl _
  · exact Fc4.releaseDue_flow _ _

theorem Fc4.enterStopped_flow (s : Fc4) (r : StopReason) (hr : r ≠ .noReason) (hw : working s.ctl.mode = true) :
    Flow s (s.enterStopped r) := (s.stopBlocks_flow r hr hw).trans (s.enterStopped_flow_blocks r)

/-! ### After a touch -/

theorem Fc4.afterTouch_flow (s : Fc4) : Flow s s.afterTouch := by
  unfold Fc4.afterTouch; repeat' split
  · rename_i h
    exact s.enterStopped_flow _ (by simp) (by rcases h.2.2 with h | h <;> simp [h, working])
  · exact s.pauseCheck_flow.trans (Fc4.beginYield_flow _)
  · exact s.pauseCheck_flow.trans (Fc4.testStart_flow _)

theorem Fc4.endTouch_flow (s : Fc4) (o : TouchOutcome) : Flow s (s.endTouch o) :=
  (s.finishTouch_flow o).trans (Fc4.afterTouch_flow _)

theorem Fc4.giveUpTouch_flow (s : Fc4) : Flow s s.giveUpTouch := by
  unfold Fc4.giveUpTouch; split
  · rename_i e he
    split
    · rename_i hd
      exact (s.deferEntry_flow e (Fc4.activeEntry_mem he) (Fc4.deferAllowed_lt hd)).trans (Fc4.afterTouch_flow _)
    · exact s.endTouch_flow _
  · exact .refl s

theorem Fc4.deferClaiming_flow (s : Fc4) (e : Entry) (he : e ∈ s.work.list) (hd : e.deferCount < deferMax) :
    Flow s (s.deferClaiming e) := by
  unfold Fc4.deferClaiming; dsimp only; split
  · exact ((s.deferEntry_flow e he hd).trans (Fc4.afterTouch_flow _)).trans (Fc4.withdrawClaim_flow _)
  · exact (s.deferEntry_flow e he hd).trans (Fc4.afterTouch_flow _)

theorem Fc4.giveUp_flow (s : Fc4) (c : Claim) : Flow s (s.giveUp c) := by
  unfold Fc4.giveUp; dsimp only; split
  · exact s.withdrawClaim_flow.trans (Fc4.giveUpTouch_flow _)
  · exact s.withdrawClaim_flow.trans (.same rfl rfl)
  · exact .after (Fc4.testStart_flow _) (s.withdrawClaim_flow.trans (Fc4.answerAsks_flow _ _))
  · exact s.withdrawClaim_flow

theorem Fc4.parkProceeds_flow (s : Fc4) : Flow s s.parkProceeds := by
  unfold Fc4.parkProceeds; repeat' split
  · exact .same rfl rfl
  · exact s.requestMove_flow _ _
  · exact .refl s

end Sys2Proof.Machine
end

