-- ==== Sys2Proof/Laws/PairFlow.lean ====
section
/-! SUPPORT. The flows of chapter 05 (meeting, lines, endings) and of the ends of searches and measurements: each is a
`Flow`. -/

namespace Sys2Proof.Machine

/-! ### The measurement record in the part -/

/-- A change of the measurement record that leaves no measurement under way and no stimulus on, and closes neither force
nor return switch, is a flow. -/
theorem Flow.ofMeas {s : Fc4} {m : Meas} (h : s.StimulusOk → m.stimulus = none ∧ m.active = false)
    (f : m.forceSw = none ∨ m.forceSw = s.meas.forceSw) (r : m.retSw = none ∨ m.retSw = s.meas.retSw) :
    Flow s { s with meas := m } :=
  ⟨rfl, id, id, id, id, id, fun hs => ⟨by simp [(h hs).1], by simp [(h hs).2]⟩, id, fun k => k.ofMeas f r, .inl rfl⟩

/-- A change of switches and of a break asked for is a flow, where a force or return switch that it leaves closed stands
on a held line, and in STARTING none is closed. -/
theorem Flow.ofSwitches {s : Fc4} {m : Meas} (h1 : m.stimulus = s.meas.stimulus) (h2 : m.state = s.meas.state)
    (h3 : m.discharge = s.meas.discharge) (h4 : s.HeldOk → ({ s with meas := m } : Fc4).HeldOk) :
    Flow s { s with meas := m } :=
  ⟨rfl, id, id, id, id, id, by simp only [Fc4.StimulusOk, Meas.active, Meas.purposeIs, h1, h2, h3]; exact id, id, h4, .inl rfl⟩

theorem Fc4.noteSwitches_flow (s : Fc4) : Flow s s.noteSwitches := by
  unfold Fc4.noteSwitches; split
  · exact s.mapRdv_flow _
  · exact .refl s

theorem Fc4.setOutcome_flow (s : Fc4) (o : TouchOutcome) : Flow s (s.setOutcome o) := .same rfl rfl

theorem Fc4.breakLines_flow (s : Fc4) : Flow s s.breakLines := by
  unfold Fc4.breakLines; split
  · exact .after (Fc4.noteSwitches_flow _) (.ofSwitches rfl rfl rfl fun k => k.ofMeas (.inl rfl) (.inl rfl))
  · split
    · exact .ofSwitches rfl rfl rfl fun k => k.ofMeas (.inr rfl) (.inr rfl)
    · exact .after (Fc4.noteSwitches_flow _) (s.abort_flow _)

theorem Fc4.dropLinesIfDone_flow (s : Fc4) : Flow s s.dropLinesIfDone := by
  unfold Fc4.dropLinesIfDone; repeat' split
  all_goals first | exact .refl s | exact s.releaseDue_flow _

theorem Fc4.liftIfFree_flow (s : Fc4) : Flow s s.liftIfFree := by
  unfold Fc4.liftIfFree; repeat' split
  all_goals first | exact .refl s | skip
  rename_i h
  exact s.goLift_flow (fun _ => Meas.not_active_of_idle h.2.2.1)

theorem Fc4.closeCheck_flow (s : Fc4) : Flow s s.closeCheck := by
  unfold Fc4.closeCheck; repeat' split
  all_goals first | exact .refl s | exact s.endTouch_flow _

theorem Fc4.fillPair_flow (s : Fc4) (f : PairFill) : Flow s { s with link := s.link.fillPair f } := .ofLink (by simp)

theorem Fc4.toFinishing_flow (s : Fc4) (o : TouchOutcome) : Flow s (s.toFinishing o) := by
  unfold Fc4.toFinishing; dsimp only; split
  · exact .refl s
  · split
    · exact s.mapRdv_flow _
    · exact .after (Fc4.mapRdv_flow _ _) (.after (Fc4.fillPair_flow _ _) (s.mapRdv_flow _))

theorem Fc4.dropLineClaim_flow (s : Fc4) : Flow s (if s.lineClaimPending then s.withdrawClaim else s) := by
  split
  · exact s.withdrawClaim_flow
  · exact .refl s

theorem Fc4.finishLanded_flow (s : Fc4) (o : TouchOutcome) : Flow s (s.finishLanded o) :=
  .after (Fc4.dropLinesIfDone_flow _) (.after (Fc4.liftIfFree_flow _) (.after (Fc4.breakLines_flow _)
    (.after (Fc4.dropLineClaim_flow _) (s.toFinishing_flow o))))

theorem Fc4.endRaised_flow (s : Fc4) (o : TouchOutcome) : Flow s (s.endRaised o) :=
  .after (Fc4.endTouch_flow _ _) (.ofMotion rfl rfl rfl)

theorem Fc4.endRendezvous_flow (s : Fc4) (o : TouchOutcome) (q : Bool) : Flow s (s.endRendezvous o q) := by
  have h0 : Flow s ((s.setOutcome o).mapRdv (fun r => { r with quiet := q })) :=
    (s.setOutcome_flow o).trans (Fc4.mapRdv_flow _ _)
  unfold Fc4.endRendezvous; dsimp only
  generalize (s.setOutcome o).mapRdv (fun r => { r with quiet := q }) = u at h0 ⊢
  repeat' split
  all_goals first
    | exact .refl s
    | exact h0
    | exact h0.trans (u.withdrawClaim_flow.trans (Fc4.endRaised_flow _ _))
    | exact h0.trans (u.endRaised_flow _)
    | exact h0.trans (u.toFinishing_flow _)
    | exact h0.trans (u.abort_flow _)
    | exact h0.trans (u.finishLanded_flow _)

theorem Fc4.checkLost_flow (s : Fc4) : Flow s s.checkLost := by
  unfold Fc4.checkLost; repeat' split
  all_goals first | exact .refl s | exact s.endRendezvous_flow _ _ | skip
  rename_i e he _ hd
  exact s.deferClaiming_flow e (Fc4.activeEntry_mem he) (Fc4.deferAllowed_lt hd)

theorem Fc4.senseWatch_flow (s : Fc4) : Flow s s.senseWatch := by
  have h0 : Flow s (({ s with meas := { s.meas with senseSw := none } }).mapRdv
      (fun r => { r with connected := false })) :=
    .after (Fc4.mapRdv_flow _ _) (.ofSwitches rfl rfl rfl fun k => k.ofMeas (.inr rfl) (.inr rfl))
  unfold Fc4.senseWatch; dsimp only
  generalize ({ s with meas := { s.meas with senseSw := none } } : Fc4).mapRdv
    (fun r => { r with connected := false }) = u at h0 ⊢
  repeat' split
  all_goals first
    | exact .refl s
    | exact h0
    | exact h0.trans (u.endRendezvous_flow _ _)

theorem Fc4.senseLines_flow (s : Fc4) : Flow s s.senseLines := by
  unfold Fc4.senseLines; repeat' split
  all_goals first
    | exact .refl s
    | exact s.mapRdv_flow _
    | exact .same (by simp [Fc4.steady]) rfl

theorem Fc4.toLinking_flow (s : Fc4) (r : Rendezvous) (c : Bool) : Flow s (s.toLinking r c) := by
  unfold Fc4.toLinking; dsimp only; split
  · exact (s.mapRdv_flow _).trans (Fc4.requestLines_flow _ _)
  · exact (s.mapRdv_flow _).trans (Fc4.senseLines_flow _)

theorem Fc4.meet_flow (s : Fc4) : Flow s s.meet := by
  unfold Fc4.meet; repeat' split
  all_goals first | exact .refl s | exact s.endRendezvous_flow _ _ | exact s.toLinking_flow _ _

theorem Fc4.pairRecheck_flow (s : Fc4) : Flow s s.pairRecheck :=
  .after (Fc4.senseLines_flow _) (.after (Fc4.meet_flow _) (.after (Fc4.senseWatch_flow _) s.checkLost_flow))

/-- A switch that a filter opens, or leaves as it was. -/
theorem filter_none_or {α : Type} (p : α → Bool) (o : Option α) : o.filter p = none ∨ o.filter p = o := by
  cases o with
  | none => exact .inl rfl
  | some a => cases h : p a <;> simp [Option.filter, h]

theorem Fc4.enforceOwnLines_flow (s : Fc4) : Flow s s.enforceOwnLines :=
  .after (Fc4.noteSwitches_flow _)
    (.ofSwitches rfl rfl rfl fun k => k.ofMeas (filter_none_or _ _) (filter_none_or _ _))

/-- A measurement that has begun is under way (R143). -/
theorem Meas.begin_active (m : Meas) (o : MeasOwner) (l : Latched) (now : Time) : (m.begin o l now).active = true := by
  unfold Meas.begin; dsimp only; split <;> simp [Meas.active, Meas.goTiming]

theorem Meas.begin_switches (m : Meas) (o : MeasOwner) (l : Latched) (now : Time) :
    (m.begin o l now).forceSw = m.forceSw ∧ (m.begin o l now).retSw = m.retSw := by
  unfold Meas.begin; dsimp only; split <;> exact ⟨rfl, rfl⟩

/-- A measurement begins while Z is LANDED (R143, R158). -/
theorem Fc4.begin_flow (s : Fc4) (o : MeasOwner) (l : Latched) (now : Time) (h : s.motion.zState = .landed) :
    Flow s { s with meas := s.meas.begin o l now } :=
  ⟨rfl, id, id, id, id, id, fun _ => ⟨fun _ => s.meas.begin_active o l now, fun _ => h⟩, id,
    fun k => k.ofMeas (.inr (s.meas.begin_switches o l now).1) (.inr (s.meas.begin_switches o l now).2), .inl rfl⟩

theorem Fc4.canMeasure_landed {s : Fc4} (h : s.canMeasure = true) : s.motion.zState = .landed := by
  simp only [Fc4.canMeasure, Bool.and_eq_true, decide_eq_true_eq] at h; exact h.1

theorem Fc4.startMeasuring_flow (s : Fc4) : Flow s s.startMeasuring := by
  unfold Fc4.startMeasuring; split
  · rename_i h
    exact (s.begin_flow _ _ _ (canMeasure_landed h)).trans (Fc4.mapRdv_flow _ _)
  · exact s.mapRdv_flow _

theorem Fc4.startSolo_flow (s : Fc4) (e : Entry) : Flow s (s.startSolo e) := by
  unfold Fc4.startSolo; split
  · exact s.begin_flow _ _ _ (canMeasure_landed ‹_›)
  · exact .refl s

theorem Fc4.startWaiting_flow (s : Fc4) : Flow s s.startWaiting := by
  unfold Fc4.startWaiting; repeat' split
  all_goals first | exact .refl s | exact s.startSolo_flow _ | exact s.startMeasuring_flow

/-- The two switches closed on the station's own lines, in an open rendezvous (R158). -/
theorem Fc4.closeOwn_flow (s : Fc4) (l : LineRoles) (h : s.resv.heldLines = l) (hr : s.pair.rdv ≠ none) :
    Flow s { s with meas := { s.meas with forceSw := l.force, retSw := l.ret } } := by
  refine .ofSwitches rfl rfl rfl fun k => ⟨k.covered, k.starts, k.joins, fun hm => absurd (k.unpaired hm).1 hr, ?_, ?_⟩ <;>
    · intro x e
      simp only at e
      simp [h, holdsLine, e]

theorem Fc4.sourceLines_flow (s : Fc4) (l : LineRoles) : Flow s (s.sourceLines l) := by
  unfold Fc4.sourceLines; dsimp only; split
  · rename_i r hr
    split
    · rename_i h
      have h2 : Flow s ({ (s.mapRdv (fun r => { r with forceLine := l.force, retLine := l.ret })) with
          meas := { (s.mapRdv (fun r => { r with forceLine := l.force, retLine := l.ret })).meas with
            forceSw := l.force, retSw := l.ret } }) :=
        .after (Fc4.closeOwn_flow _ l h.2.2.2 (by simp [Fc4.mapRdv, hr])) (s.mapRdv_flow _)
      split
      · exact .after (Fc4.startMeasuring_flow _) (.after (Fc4.mapRdv_flow _ _) h2)
      · exact .after (Fc4.mapRdv_flow _ _) h2
    · exact s.mapRdv_flow _
  · exact .refl s

/-! ### Ends of searches and measurements -/

theorem Fc4.toFinishing_meas (s : Fc4) (o : TouchOutcome) : (s.toFinishing o).meas = s.meas := by
  unfold Fc4.toFinishing; dsimp only; repeat' split
  all_goals rfl

theorem Fc4.toFinishing_motion (s : Fc4) (o : TouchOutcome) : (s.toFinishing o).motion = s.motion := by
  unfold Fc4.toFinishing; dsimp only; repeat' split
  all_goals rfl

/-- A failed search lifts; no measurement is under way then, for Z is not LANDED (R158). -/
theorem Fc4.failSearch_flow (s : Fc4) (o : TouchOutcome) (h : s.motion.zState ≠ .landed) :
    Flow s (s.failSearch o) := by
  unfold Fc4.failSearch; dsimp only; split
  · exact s.goLift_flow fun hs => Bool.eq_false_iff.mpr fun ha => h (hs.2 ha)
  · refine .after (Fc4.goLift_flow _ fun hs => Bool.eq_false_iff.mpr fun ha => h ?_)
      ((s.setOutcome_flow o).trans (Fc4.toFinishing_flow _ o))
    have := hs.2 ha
    rwa [Fc4.toFinishing_motion] at this

theorem Fc4.failLanded_flow (s : Fc4) (o : TouchOutcome) : Flow s (s.failLanded o) := by
  have h0 : Flow s { s.setOutcome o with meas := s.meas.abort s.now } :=
    .after (Fc4.abort_flow (s.setOutcome o) s.now) (s.setOutcome_flow o)
  unfold Fc4.failLanded; dsimp only; split
  · exact s.endRendezvous_flow _ _
  · split
    · split
      · rename_i hi
        exact h0.trans (Fc4.goLift_flow _ fun _ => Meas.not_active_of_idle hi)
      · exact h0
    · exact .refl s
  · exact .refl s

/-- After an abort the record is IDLE and its stimulus off (R161). -/
theorem Meas.abortDone_off (m : Meas) : m.abortDone.stimulus = none ∧ m.abortDone.state = .idle := ⟨rfl, rfl⟩

theorem Meas.finish_off (m : Meas) : m.finish.stimulus = none ∧ m.finish.state = .idle := by
  unfold Meas.finish; dsimp only; split <;> exact ⟨rfl, rfl⟩

theorem Meas.finish_switches (m : Meas) :
    (m.finish.forceSw = none ∨ m.finish.forceSw = m.forceSw) ∧ (m.finish.retSw = none ∨ m.finish.retSw = m.retSw) := by
  unfold Meas.finish; dsimp only; split
  · exact ⟨.inl rfl, .inl rfl⟩
  · exact ⟨.inr rfl, .inr rfl⟩

theorem Fc4.noteSwitches_meas (s : Fc4) : s.noteSwitches.meas = s.meas := by
  unfold Fc4.noteSwitches; split <;> rfl

/-- What waited for the unit goes on; no measurement is under way then. -/
theorem Fc4.unitFreed_flow (u : Fc4) (hi : u.meas.active = false) : Flow u u.unitFreed := by
  unfold Fc4.unitFreed; dsimp only
  have h2 : Flow u (if u.motion.liftWanted then u.beginLift else u) := by
    split
    · exact u.beginLift_flow fun _ => hi
    · exact .refl u
  have hj : (if u.motion.liftWanted then u.beginLift else u).meas.active = false := by split <;> exact hi
  generalize (if u.motion.liftWanted then u.beginLift else u) = v at h2 hj ⊢
  split
  · split
    · exact h2.trans (v.finishLanded_flow _)
    · exact h2.trans (.after (Fc4.closeCheck_flow _) (.after (Fc4.dropLinesIfDone_flow _) v.liftIfFree_flow))
    · exact h2
  · split
    · exact h2.trans (v.goLift_flow fun _ => hj)
    · exact h2
  · exact h2

theorem Fc4.abortEnded_flow (s : Fc4) : Flow s s.abortEnded := by
  refine .after (Fc4.unitFreed_flow _ ?_) (.after (Fc4.noteSwitches_flow _)
    (.ofMeas (fun _ => ⟨rfl, Meas.not_active_of_idle rfl⟩) (.inl rfl) (.inl rfl)))
  rw [Fc4.noteSwitches_meas]; exact Meas.not_active_of_idle rfl

theorem Fc4.resetDischarged_flow (s : Fc4) : Flow s s.resetDischarged :=
  .after (Fc4.startWaiting_flow _) (.after (Fc4.unitFreed_flow _ (Meas.not_active_of_idle rfl))
    (.ofMeas (fun _ => ⟨rfl, Meas.not_active_of_idle rfl⟩) (.inr rfl) (.inr rfl)))

theorem Fc4.fillPair_meas (s : Fc4) (f : PairFill) : ({ s with link := s.link.fillPair f }).meas = s.meas := rfl

theorem Fc4.breakLines_inactive (s : Fc4) (h : s.meas.active = false) : s.breakLines.meas.active = false := by
  unfold Fc4.breakLines; split
  · rename_i hi
    rw [Fc4.noteSwitches_meas]; exact Meas.not_active_of_idle hi
  · split
    · exact h
    · rw [Fc4.noteSwitches_meas]; exact (s.meas.abort_off s.now).2

theorem Fc4.measured_flow (s : Fc4) (c : Computed) : Flow s (s.measured c) := by
  have hoff := Meas.not_active_of_idle s.meas.finish_off.2
  have h1 : Flow s ({ s with meas := s.meas.finish }).noteSwitches :=
    .after (Fc4.noteSwitches_flow _) (.ofMeas (fun _ => ⟨s.meas.finish_off.1, hoff⟩) s.meas.finish_switches.1 s.meas.finish_switches.2)
  have hi : ({ s with meas := s.meas.finish }).noteSwitches.meas.active = false := by
    rw [Fc4.noteSwitches_meas]; exact hoff
  unfold Fc4.measured; dsimp only
  generalize ({ s with meas := s.meas.finish }).noteSwitches = u at h1 hi ⊢
  have h2 : Flow s ((u.setOutcome c.verdict).mapTouch (fun t => { t with meas := some (s.meas.outcome c) })) :=
    .after (Fc4.mapTouch_flow _ _) (.after (u.setOutcome_flow _) h1)
  have hj : ((u.setOutcome c.verdict).mapTouch (fun t => { t with meas := some (s.meas.outcome c) })).meas.active
      = false := hi
  generalize (u.setOutcome c.verdict).mapTouch (fun t => { t with meas := some (s.meas.outcome c) }) = v at h2 hj ⊢
  split
  · refine .after (Fc4.goLift_flow _ fun _ => ?_) (.after (Fc4.mapRdv_flow _ _) (.after (Fc4.fillPair_flow _ _)
      (h2.trans v.breakLines_flow)))
    exact v.breakLines_inactive hj
  · exact h2.trans (v.goLift_flow fun _ => hj)
  · exact h1

theorem Fc4.finalDischargeOver_flow (s : Fc4) : Flow s s.finalDischargeOver := by
  unfold Fc4.finalDischargeOver; split
  · exact s.measured_flow _
  · exact s.abortEnded_flow

end Sys2Proof.Machine
end

