-- ==== Sys2Proof/Laws/Keeps.lean ====
section
/-! SUPPORT. What the effects of the rows keep of the predicates of Safety.lean: one lemma per effect, over the flows. -/

namespace Sys2Proof.Machine

/-- Each predicate of Safety.lean that `s` has, `t` has. -/
structure Keeps (s t : Fc4) : Prop where
  reason   : s.ReasonOk → t.ReasonOk
  list     : s.ListOk → t.ListOk
  queue    : s.QueueOk → t.QueueOk
  refusals : s.RefusalsOk → t.RefusalsOk
  fails    : s.FailsOk → t.FailsOk
  peers    : s.PeersOk → t.PeersOk
  keys     : s.KeysOk → t.KeysOk
  heights  : s.HeightsOk → t.HeightsOk
  stimulus : s.StimulusOk → t.StimulusOk
  motion   : s.MotionOk → t.MotionOk

theorem Keeps.refl (s : Fc4) : Keeps s s := ⟨id, id, id, id, id, id, id, id, id, id⟩

theorem Keeps.after {s t u : Fc4} (g : Keeps t u) (h : Keeps s t) : Keeps s u :=
  ⟨g.reason ∘ h.reason, g.list ∘ h.list, g.queue ∘ h.queue, g.refusals ∘ h.refusals, g.fails ∘ h.fails,
    g.peers ∘ h.peers, g.keys ∘ h.keys, g.heights ∘ h.heights, g.stimulus ∘ h.stimulus, g.motion ∘ h.motion⟩

/-- A flow keeps every predicate. -/
theorem Flow.keeps {s t : Fc4} (h : Flow s t) : Keeps s t := by
  have hs := h.steady
  simp only [Fc4.steady, Prod.mk.injEq] at hs
  obtain ⟨-, hview, hheights, hnotes, hlink, -, hresults, hctl, -, -⟩ := hs
  simp only [Link.steady, Results.steady, Prod.mk.injEq] at hlink hresults
  refine ⟨h.reason, h.list, h.queue, ?_, ?_, ?_, fun ⟨a, b, c⟩ => ⟨h.asks a, h.shadows b, ?_⟩, ?_, h.stimulus, h.motion⟩
  · simp only [Fc4.RefusalsOk, hresults.1, hresults.2.1]; exact id
  · simp only [Fc4.FailsOk, hlink.2.1]; exact id
  · have h1 : t.ctl.number = s.ctl.number := by have := congrArg Ctl.number hctl; exact this
    have h2 : t.ctl.resetHold = s.ctl.resetHold := by have := congrArg Ctl.resetHold hctl; exact this
    simp only [Fc4.PeersOk, hview, h1, h2]; exact id
  · rw [hnotes]; exact c
  · simp only [Fc4.HeightsOk, hheights]; exact id

/-- All that the predicates of Safety.lean read. -/
def Fc4.judged (s : Fc4) :=
  (s.ctl.mode, s.ctl.reason, s.work.list, s.results.queue, s.results.refusals, s.results.overflow, s.link.fails,
    s.view.peers, s.ctl.number, s.ctl.resetHold, s.resv.asks, s.resv.shadows, s.pair.notes, s.heights, s.meas.stimulus,
    s.meas.state, s.meas.discharge, s.motion.zState, s.motion.axis)

/-- What changes nothing that the predicates read keeps them. -/
theorem Keeps.same {s t : Fc4} (h : t.judged = s.judged) : Keeps s t := by
  simp only [Fc4.judged, Prod.mk.injEq] at h
  obtain ⟨h1, h2, h3, h4, h5, h6, h7, h8, h9, h10, h11, h12, h13, h14, h15, h16, h17, h18, h19⟩ := h
  refine ⟨?_, ?_, ?_, ?_, ?_, ?_, ?_, ?_, ?_, ?_⟩
  · simp only [Fc4.ReasonOk, h1, h2]; exact id
  · simp only [Fc4.ListOk, h3]; exact id
  · simp only [Fc4.QueueOk, h4]; exact id
  · simp only [Fc4.RefusalsOk, h5, h6]; exact id
  · simp only [Fc4.FailsOk, h7]; exact id
  · simp only [Fc4.PeersOk, h8, h9, h10]; exact id
  · simp only [Fc4.KeysOk, h11, h12, h13]; exact id
  · simp only [Fc4.HeightsOk, h14]; exact id
  · simp only [Fc4.StimulusOk, Meas.active, Meas.purposeIs, h15, h16, h17, h18]; exact id
  · simp only [Fc4.MotionOk, h18, h19]; exact id

theorem Fc4.elapse_keeps (s : Fc4) (dt : Time) : Keeps s (s.elapse dt) := .same rfl

theorem onlyIf_keeps {c : Bool} {f : Fc4 → Fc4} {s : Fc4} (h : c = true → Keeps s (f s)) : Keeps s (onlyIf c f s) := by
  unfold onlyIf; split
  · exact h ‹_›
  · exact .refl s

/-! ### The link -/

@[simp] theorem Link.fillStatus_fails (l : Link) : l.fillStatus.fails = l.fails := by
  unfold Link.fillStatus Link.noteRefill; split <;> rfl

@[simp] theorem Link.fillBeacon_fails (l : Link) : l.fillBeacon.fails = l.fails := by
  unfold Link.fillBeacon Link.noteRefill; split <;> rfl

@[simp] theorem Link.holdJoin_fails (l : Link) : l.holdJoin.fails = l.fails := by
  unfold Link.holdJoin; split <;> rfl

@[simp] theorem Link.restartJoin_fails (l : Link) (t : Time) : (l.restartJoin t).fails = l.fails := by
  unfold Link.restartJoin; split <;> rfl

theorem Fc4.fillStatus_keeps (s : Fc4) : Keeps s s.fillStatus := .same (by simp [Fc4.judged])

theorem Fc4.fillBeacon_keeps (s : Fc4) (due : Time) : Keeps s (s.fillBeacon due) := .same (by simp [Fc4.judged])

theorem Fc4.reportCommand_keeps (s : Fc4) (c : Command) (o : CommandOutcome) : Keeps s (s.reportCommand c o) :=
  .after (Fc4.fillStatus_keeps _) (.same rfl)

theorem Link.emptySlot_fails (l : Link) (k : FrameKind) : (l.emptySlot k).fails = l.fails := by
  cases k <;> rfl

/-- The failure count after a completion is 0, or what it was (R15). -/
theorem Link.completeFrame_fails (l : Link) (passed : Bool) :
    (l.completeFrame passed).fails = 0 ∨ (l.completeFrame passed).fails = l.fails := by
  unfold Link.completeFrame; dsimp only
  repeat' split
  all_goals first | exact .inr rfl | exact .inl rfl | exact .inl (Link.emptySlot_fails _ _)

theorem Fc4.completeFrame_keeps (s : Fc4) (passed : Bool) : Keeps s { s with link := s.link.completeFrame passed } := by
  refine ⟨id, id, id, id, fun h => ?_, id, id, id, id, id⟩
  have := s.link.completeFrame_fails passed
  simp only [Fc4.FailsOk] at *; omega

theorem Fc4.lineUsed_keeps (s : Fc4) : Keeps s s.lineUsed := .same rfl

theorem Fc4.complete_keeps (s : Fc4) : Keeps s s.complete := (Fc4.lineUsed_keeps _).after (s.completeFrame_keeps true)

/-- A stop reads neither the mode nor the stop reason before it. -/
theorem Fc4.stopBlocks_keeps (s : Fc4) (r : StopReason) (h : r ≠ .noReason) : Keeps s (s.stopBlocks r) := by
  have f := (({ s with ctl := { s.ctl with mode := .idle, reason := .noReason } } : Fc4).stopBlocks_flow r h rfl).keeps
  exact ⟨fun _ => f.reason (by simp [Fc4.ReasonOk]), f.list, f.queue, f.refusals, f.fails, f.peers, f.keys, f.heights,
    f.stimulus, f.motion⟩

theorem Fc4.enterStopped_keeps (s : Fc4) (r : StopReason) (h : r ≠ .noReason) : Keeps s (s.enterStopped r) :=
  (s.enterStopped_flow_blocks r).keeps.after (s.stopBlocks_keeps r h)

/-- A change of mode and stop reason that keeps R178 keeps every predicate. -/
theorem Keeps.ofCtl {s : Fc4} {c : Ctl} (hn : c.number = s.ctl.number) (hh : c.resetHold = s.ctl.resetHold)
    (h : s.ReasonOk → (c.reason = .noReason ↔ c.mode ≠ .stopped)) : Keeps s { s with ctl := c } :=
  ⟨h, id, id, id, id, fun p => ⟨p.1, by simpa only [hn] using p.2.1, by simpa only [hh] using p.2.2⟩, id, id, id, id⟩

theorem Fc4.countFailure_keeps (s : Fc4) : Keeps s s.countFailure := by
  unfold Fc4.countFailure; dsimp only; split
  · exact ⟨id, id, id, id, fun _ => ‹_›, id, id, id, id, id⟩
  · have h0 : Keeps s { s with link := { s.link with fails := 0 } } :=
      ⟨id, id, id, id, fun _ => by simp [Fc4.FailsOk], id, id, id, id, id⟩
    split
    · exact (Fc4.enterStopped_keeps _ _ (by simp)).after h0
    · exact h0

theorem Fc4.duplicate_keeps (s : Fc4) : Keeps s s.duplicate := by
  unfold Fc4.duplicate; repeat' split
  all_goals first | exact .refl s | exact .same rfl | exact s.enterStopped_keeps _ (by simp) | skip
  rename_i hm _
  exact .ofCtl rfl rfl (fun _ => by simp [hm])

theorem Fc4.cutOffMode_keeps (s : Fc4) : Keeps s s.cutOffMode := by
  unfold Fc4.cutOffMode; repeat' split
  all_goals first | exact .refl s | exact .same rfl | exact s.enterStopped_keeps _ (by simp) | skip
  rename_i hm _
  exact .ofCtl rfl rfl (fun _ => by simp [hm])

/-! ### The Peer View -/

/-- A change of the records that keeps their form and stations keeps every predicate. -/
theorem Keeps.ofView {s : Fc4} {v : View} (h : s.PeersOk → ({ s with view := v } : Fc4).PeersOk) :
    Keeps s { s with view := v } := ⟨id, id, id, id, id, h, id, id, id, id⟩

theorem Fc4.trustNoPeer_keeps (s : Fc4) : Keeps s s.trustNoPeer := by
  refine (Fc4.pairRecheck_flow _).keeps.after (.ofView fun h => ⟨tableMap_sorted _ h.1, fun p hp => ?_, fun hr => ?_⟩)
  · simp only [View.markAllUnsure, tableMap, List.mem_map] at hp
    obtain ⟨q, hq, rfl⟩ := hp
    exact h.2.1 q hq
  · simp [View.markAllUnsure, tableMap, h.2.2 hr]

theorem Fc4.track_keeps (s : Fc4) (hdr : Header) (b : Bool) (f : PeerRecord → PeerRecord) (now : Time)
    (h0 : hdr.sender ≠ 0) (hown : hdr.sender ≠ s.own) (hr : s.ctl.resetHold = none) :
    Keeps s { s with view := s.view.track hdr b f now } := by
  refine .ofView fun h => ⟨tablePut_sorted _ _ h.1, fun p hp => ?_, fun hh => by simp [hr] at hh⟩
  rcases mem_tablePut hp with rfl | hp
  · refine ⟨Nat.pos_of_ne_zero fun e => h0 (Fin.ext e), hdr.sender.isLt, fun e => hown (Fin.ext e)⟩
  · exact h.2.1 p hp

theorem Fc4.receiving_hold {s : Fc4} (h : s.receiving = true) : s.ctl.resetHold = none := by
  simp only [Fc4.receiving, Bool.and_eq_true, Option.isNone_iff_eq_none] at h; exact h.1

theorem Fc4.hearing_hold {s : Fc4} (h : s.hearing = true) : s.ctl.resetHold = none := by
  simp only [Fc4.hearing, Bool.and_eq_true] at h; exact Fc4.receiving_hold h.1

theorem Fc4.heardFrom_keeps (s : Fc4) (hdr : Header) (b : Bool) (f : PeerRecord → PeerRecord) (c : Fc4 → Fc4)
    (h : s.hearing = true) (hc : ∀ t, Keeps t (c t)) : Keeps s (s.heardFrom hdr b f c) := by
  unfold Fc4.heardFrom; repeat' split
  · exact (Fc4.recheck_flow _).keeps.after s.duplicate_keeps
  · exact s.recheck_flow.keeps
  · exact .after (Fc4.recheck_flow _).keeps (.after (Fc4.pairRecheck_flow _).keeps (.after (hc _)
      (s.track_keeps hdr b f s.now ‹_› ‹_› (Fc4.hearing_hold h))))

theorem Fc4.peerSilent_keeps (s : Fc4) (peer : Station) (r : PeerRecord) (h : s.record peer = some r) :
    Keeps s (s.peerSilent peer r) := by
  have hm := mem_of_tableGet h
  have h1 : Keeps s { s with view := { s.view with peers := tablePut peer.val (silence s.ctl.side r) s.view.peers } } := by
    refine .ofView fun hp => ⟨tablePut_sorted _ _ hp.1, fun p hpp => ?_, fun hh => ?_⟩
    · rcases mem_tablePut hpp with rfl | hpp
      · exact hp.2.1 (peer.val, r) hm
      · exact hp.2.1 p hpp
    · have := hp.2.2 hh; simp [this] at hm
  unfold Fc4.peerSilent; dsimp only; split
  · exact (Fc4.endAsk_flow _).keeps.after h1
  · exact h1

/-! ### What frames do -/

theorem Fc4.beaconHeard_keeps (s : Fc4) (p : Station) (b : BeaconBody) : Keeps s (s.beaconHeard p b) := by
  unfold Fc4.beaconHeard; repeat' split
  all_goals first | exact .refl s | exact s.endAsk_flow.keeps

theorem Fc4.claimHeard_keeps (s : Fc4) (p : Station) (b : ClaimBody) : Keeps s (s.claimHeard p b) :=
  ⟨id, id, id, id, id, id, fun h => ⟨h.1, h.2.1.sublist (List.filter_sublist.map _), h.2.2⟩, id, id, id⟩

theorem Fc4.havenAnswer_keeps (s : Fc4) (p : Station) : Keeps s (s.havenAnswer p) := by
  unfold Fc4.havenAnswer; repeat' split
  all_goals first | exact .refl s | exact (s.giveUp_flow _).keeps

theorem Fc4.releaseHeard_keeps (s : Fc4) (p : Station) (b : ReleaseBody) : Keeps s (s.releaseHeard p b) := by
  unfold Fc4.releaseHeard; repeat' split
  all_goals first | exact .refl s | exact s.endAsk_flow.keeps | exact (Fc4.havenAnswer_keeps _ _).after s.endAsk_flow.keeps

theorem Fc4.admitAsk_keeps (s : Fc4) (p : Station) (b : Box) : Keeps s (s.admitAsk p b) := by
  have h1 : Keeps s { s with resv := { s.resv with asks := tablePut p.val b s.resv.asks } } :=
    ⟨id, id, id, id, id, id, fun h => ⟨tablePut_sorted _ _ h.1, h.2⟩, id, id, id⟩
  unfold Fc4.admitAsk; dsimp only; split
  · exact h1
  · exact (Fc4.yieldFallsDue_flow _).keeps.after h1

theorem Fc4.askHeard_keeps (s : Fc4) (p t : Station) (b : Box) : Keeps s (s.askHeard p t b) := by
  unfold Fc4.askHeard; repeat' split
  all_goals first | exact .refl s | exact s.admitAsk_keeps _ _ | exact (Fc4.admitAsk_keeps _ _ _).after s.endAsk_flow.keeps

theorem noteTouch_sorted {t : List (Nat × TouchNote)} (h : tableSorted t = true) (p : Nat) (b : TouchBody) :
    tableSorted (noteTouch t p b) = true := by
  unfold noteTouch; split
  · exact tableDrop_sorted _ h
  · exact tablePut_sorted _ _ h

theorem Fc4.peerSample_keeps (s : Fc4) (b : TouchBody) : Keeps s (s.peerSample b) := by
  unfold Fc4.peerSample; split
  · exact ⟨id, id, id, id, id, id, id, fun h => takeSample_ok _ _ h, id, id⟩
  · exact .refl s

theorem Fc4.touchHeard_keeps (s : Fc4) (p : Station) (b : TouchBody) : Keeps s (s.touchHeard p b) := by
  have h1 : Keeps s (({ s with pair := { s.pair with notes := noteTouch s.pair.notes p.val b } }).peerSample b) :=
    .after (Fc4.peerSample_keeps _ _)
      ⟨id, id, id, id, id, id, fun h => ⟨h.1, h.2.1, noteTouch_sorted h.2.2 _ _⟩, id, id, id⟩
  unfold Fc4.touchHeard; dsimp only
  generalize ({ s with pair := { s.pair with notes := noteTouch s.pair.notes p.val b } }).peerSample b = u at h1 ⊢
  repeat' split
  all_goals first | exact h1 | exact (u.endRendezvous_flow _ _).keeps.after h1

theorem Fc4.dropNote_keeps (s : Fc4) (p : Station) : Keeps s (s.dropNote p) :=
  ⟨id, id, id, id, id, id, fun h => ⟨h.1, h.2.1, tableDrop_sorted _ h.2.2⟩, id, id, id⟩

theorem Fc4.joinedHeard_keeps (s : Fc4) (p t : Station) (tag : Nat) : Keeps s (s.joinedHeard p t tag) := by
  unfold Fc4.joinedHeard; repeat' split
  all_goals first | exact .refl s | exact s.startMeasuring_flow.keeps | exact (s.mapRdv_flow _).keeps

theorem Fc4.sensed_flow (s : Fc4) : Flow s s.sensed := by
  unfold Fc4.sensed; dsimp only
  exact .after (Fc4.liftIfFree_flow _) (.after (Fc4.breakLines_flow _) (.after (.ofLink (by simp))
    (.after (Fc4.mapRdv_flow _ _) (s.setOutcome_flow _))))

theorem Fc4.doneHeard_keeps (s : Fc4) (p t : Station) (tag : Nat) : Keeps s (s.doneHeard p t tag) := by
  have h1 := s.dropNote_keeps p
  unfold Fc4.doneHeard; dsimp only
  generalize s.dropNote p = u at h1 ⊢
  repeat' split
  all_goals first | exact h1 | exact u.sensed_flow.keeps.after h1 | exact (u.endRendezvous_flow _ _).keeps.after h1

theorem Fc4.removeAbandoned_flow (s : Fc4) (p : Station) (tag : Nat) : Flow s (s.removeAbandoned p tag) := by
  unfold Fc4.removeAbandoned; split
  · exact (Fc4.testStart_flow _).after (s.produceResult_flow _ _)
  · exact .refl s

theorem Fc4.abandonHeard_keeps (s : Fc4) (p t : Station) (tag : Nat) : Keeps s (s.abandonHeard p t tag) := by
  have h1 := s.dropNote_keeps p
  unfold Fc4.abandonHeard; dsimp only
  generalize s.dropNote p = u at h1 ⊢
  repeat' split
  all_goals first
    | exact h1
    | exact (u.endRendezvous_flow _ _).keeps.after h1
    | exact (u.removeAbandoned_flow _ _).keeps.after h1

/-! ### Own frames -/

theorem Fc4.offer_keeps (s : Fc4) (rivals : List Byte) : Keeps s (s.offer rivals) := by
  have h1 : Keeps s s.examineOffer := by
    unfold Fc4.examineOffer; split
    · exact s.offerExamination_flow.keeps
    · exact .refl s
  unfold Fc4.offer; dsimp only; split
  · refine Keeps.after ?_ h1
    unfold Fc4.beginFrame; dsimp only; repeat' split
    all_goals first | exact .refl _ | exact .same rfl
  · exact h1

theorem Fc4.takeClaim_keeps (s : Fc4) (f : ClaimFill) : Keeps s (s.takeClaim f) := .same rfl

theorem Fc4.reportGrant_flow (s : Fc4) (c : Claim) (l : LineRoles) : Flow s (s.reportGrant c l) := by
  have h1 : Flow s ({ s with resv := { s.resv with claim := none, blockedSince := none, recheckDue := none } }).endAsk :=
    .after (Fc4.endAsk_flow _) (.same rfl rfl)
  unfold Fc4.reportGrant; dsimp only; split
  · exact (Fc4.permitMove_flow _ _ _).after h1
  · exact (Fc4.sourceLines_flow _ _).after h1

theorem Fc4.strayGrant_flow (s : Fc4) (l : LineRoles) : Flow s (s.strayGrant l) := by
  unfold Fc4.strayGrant; split
  · exact .refl s
  · exact s.releaseDue_flow _

theorem Fc4.claimCompletes_keeps (s : Fc4) (fr : OwnFrame) (f : ClaimFill) : Keeps s (s.claimCompletes fr f) := by
  have h1 : Keeps s (s.complete.takeClaim f).enforceOwnLines :=
    .after (Fc4.enforceOwnLines_flow _).keeps ((Fc4.takeClaim_keeps _ _).after s.complete_keeps)
  unfold Fc4.claimCompletes; dsimp only
  refine .after (Fc4.recheck_flow _).keeps (.after (Fc4.closeCheck_flow _).keeps
    (.after (Fc4.dropLinesIfDone_flow _).keeps (.after (Fc4.flushRelease_flow _).keeps ?_)))
  split
  · exact (Fc4.reportGrant_flow _ _ _).keeps.after h1
  · exact (Fc4.strayGrant_flow _ _).keeps.after h1

theorem Fc4.takeRelease_keeps (s : Fc4) (f : ReleaseFill) : Keeps s (s.takeRelease f) := .same rfl

theorem Fc4.claimLosesLines_flow (s : Fc4) (kept : LineRoles) : Flow s (s.claimLosesLines kept) := by
  unfold Fc4.claimLosesLines; repeat' split
  all_goals first | exact .refl s | exact .same rfl rfl

theorem Fc4.releaseCompletes_keeps (s : Fc4) (f : ReleaseFill) : Keeps s (s.releaseCompletes f) :=
  .after (Fc4.recheck_flow _).keeps (.after (Fc4.closeCheck_flow _).keeps (.after (Fc4.dropLinesIfDone_flow _).keeps
    (.after (Fc4.claimLosesLines_flow _ _).keeps (.after (Fc4.enforceOwnLines_flow _).keeps
      ((Fc4.takeRelease_keeps _ _).after s.complete_keeps)))))

theorem Fc4.recordAskSent_keeps (s : Fc4) (fr : OwnFrame) : Keeps s (s.recordAskSent fr) := by
  unfold Fc4.recordAskSent; split
  · exact .refl s
  · exact .same rfl

theorem Fc4.pairCompletes_flow (s : Fc4) (f : PairFill) : Flow s (s.pairCompletes f) :=
  .after (Fc4.closeCheck_flow _) (.after (Fc4.dropLinesIfDone_flow _) (s.mapRdv_flow _))

theorem Fc4.resultsLeave_keeps (s : Fc4) (n : Nat) : Keeps s (s.resultsLeave n) := by
  unfold Fc4.resultsLeave
  refine .after (Fc4.testPacking_flow _).keeps (.after (Fc4.testStart_flow _).keeps (.after (Fc4.handOver_flow _).keeps ?_))
  refine ⟨id, id, fun h => ?_, id, id, id, id, id, id, id⟩
  simp only [Fc4.QueueOk, List.length_drop] at *; omega

/-! ### Resets and start-up -/

/-- The after-reset part has every predicate while a reset is in progress (R181). -/
theorem Fc4.afterReset_sound (now : Time) (r : CarriageReading) (c : Ctl) (hm : c.mode = .starting)
    (hr : c.reason = .noReason) (hp : c.startPos = none) : (Fc4.afterReset now r c).Sound where
  reason := by simp [Fc4.ReasonOk, Fc4.afterReset, hm, hr]
  list := by simp [Fc4.ListOk, Fc4.afterReset, Work.afterReset]
  queue := by simp [Fc4.QueueOk, Fc4.afterReset, Results.afterReset]
  refusals := by simp [Fc4.RefusalsOk, Fc4.afterReset, Results.afterReset]
  fails := by simp [Fc4.FailsOk, Fc4.afterReset, Link.afterReset]
  peers := by simp [Fc4.PeersOk, Fc4.afterReset, View.afterReset, tableSorted]
  keys := by simp [Fc4.KeysOk, Fc4.afterReset, Resv.afterReset, Pairing.afterReset, tableSorted]
  heights := by simp [Fc4.HeightsOk, Fc4.afterReset, tableSorted]
  stimulus := by simp [Fc4.StimulusOk, Fc4.afterReset, Meas.afterReset, Meas.active, Meas.purposeIs]
  motion := by
    simp only [Fc4.MotionOk, Fc4.afterReset, Motion.afterReset]
    refine ⟨by simp, fun h => ?_⟩
    split at h <;> simp [lowered] at h
  held := ⟨by simp [Fc4.AreaTrusted, Fc4.afterReset, hm, working], by simp [Fc4.afterReset, hp],
    by simp [Fc4.afterReset, Link.afterReset], fun _ => ⟨rfl, rfl, rfl⟩, by simp [Fc4.afterReset, Meas.afterReset]⟩

theorem Fc4.Sound.keeps {t : Fc4} (h : t.Sound) (s : Fc4) : Keeps s t :=
  ⟨fun _ => h.reason, fun _ => h.list, fun _ => h.queue, fun _ => h.refusals, fun _ => h.fails, fun _ => h.peers,
    fun _ => h.keys, fun _ => h.heights, fun _ => h.stimulus, fun _ => h.motion⟩

theorem Fc4.resetNow_sound (s : Fc4) (src : ResetSource) (h : ResetHold) (r : CarriageReading) :
    (s.resetNow src h r).Sound := Fc4.afterReset_sound _ _ _ rfl rfl rfl

theorem Fc4.endReset_keeps (s : Fc4) (st : Straps) (h : s.ctl.resetHold.isSome = true) : Keeps s (s.endReset st) := by
  refine ⟨id, id, id, id, id, fun hp => ?_, id, id, fun _ => ⟨fun h1 => ?_, fun h1 => ?_⟩, id⟩
  · have := hp.2.2 h
    simp [Fc4.PeersOk, Fc4.endReset, this, tableSorted]
  · simp [Fc4.endReset, Meas.goDischarging] at h1
  · simp [Fc4.endReset, Meas.goDischarging, Meas.active, Meas.purposeIs] at h1

theorem Fc4.openJoin_keeps (s : Fc4) : Keeps s s.openJoin := .same rfl

theorem Fc4.enterCfgFault_keeps (s : Fc4) (h : s.ctl.mode = .starting) : Keeps s s.enterCfgFault := by
  refine (Fc4.fillStatus_keeps _).after ((Fc4.fillBeacon_keeps _ _).after (.ofCtl rfl rfl fun hr => ?_))
  simpa [Fc4.ReasonOk, h] using hr

theorem Fc4.preparationEnd_keeps (s : Fc4) (h : s.ctl.mode = .starting) : Keeps s s.preparationEnd := by
  unfold Fc4.preparationEnd; repeat' split
  all_goals first | exact .refl s | exact s.openJoin_keeps | exact s.enterCfgFault_keeps h

theorem Fc4.judge_keeps (s : Fc4) (g : Option ImageConfig) (h : s.ctl.mode = .starting) : Keeps s (s.judge g) := by
  have h1 : Keeps s { s with
      ctl := { s.ctl with judgement := if g.isSome then .valid else .invalid, config := g }
      meas := { s.meas with k := g.map ImageConfig.samples } } := .same rfl
  exact (Fc4.preparationEnd_keeps { s with
      ctl := { s.ctl with judgement := if g.isSome then .valid else .invalid, config := g }
      meas := { s.meas with k := g.map ImageConfig.samples } } h).after h1

theorem Fc4.stopWaitOver_keeps (s : Fc4) (h : s.ctl.mode = .starting) : Keeps s s.stopWaitOver := by
  have h1 : Keeps s { s with
      motion := { s.motion with axis := .standing, faultSeen := s.motion.faultSeen || s.anyAxisFault }
      ctl := { s.ctl with startPos := some s.here } } :=
    ⟨id, id, id, id, id, id, id, id, id, fun _ => ⟨by simp, fun _ => rfl⟩⟩
  exact (Fc4.preparationEnd_keeps { s with
      motion := { s.motion with axis := .standing, faultSeen := s.motion.faultSeen || s.anyAxisFault }
      ctl := { s.ctl with startPos := some s.here } } h).after h1

theorem Fc4.chooseMode_keeps (s : Fc4) (h : s.ctl.mode = .starting) : Keeps s s.chooseMode := by
  unfold Fc4.chooseMode; repeat' split
  all_goals first | exact s.stopBlocks_keeps _ (by simp) | skip
  exact .ofCtl rfl rfl fun hr => by simpa [Fc4.ReasonOk, h] using hr

theorem Fc4.reasonAxisFault_keeps (s : Fc4) (h : s.ctl.mode = .stopped) : Keeps s s.reasonAxisFault :=
  .ofCtl rfl rfl fun _ => by simp [h]

theorem Fc4.actOnFaultSeen_keeps (s : Fc4) : Keeps s s.actOnFaultSeen := by
  have h1 : Keeps s { s with motion := { s.motion with faultSeen := false } } := .same rfl
  unfold Fc4.actOnFaultSeen; dsimp only; repeat' split
  · exact (Fc4.stopBlocks_keeps _ _ (by simp)).after h1
  · rename_i h; exact (Fc4.reasonAxisFault_keeps { s with motion := { s.motion with faultSeen := false } } h.1).after h1
  · exact h1
  · exact h1

theorem Fc4.joinEnd_keeps (s : Fc4) (h : s.ctl.mode = .starting) : Keeps s s.joinEnd := by
  unfold Fc4.joinEnd; dsimp only
  refine (Fc4.fillStatus_keeps _).after ((Fc4.fillBeacon_keeps _ _).after ((Fc4.actOnFaultSeen_keeps _).after
    (.after (Fc4.chooseMode_keeps _ h) (.same rfl))))

/-! ### Motion, descent and touchdown -/

theorem Fc4.commandMove_keeps (s : Fc4) (m : Permitted) (h : s.canMove = true) : Keeps s (s.commandMove m) := by
  simp only [Fc4.canMove, Bool.and_eq_true, decide_eq_true_eq] at h
  refine ⟨id, id, id, id, id, id, id, id, id, fun _ => ⟨fun _ => h.1.1.2, fun hl => ?_⟩⟩
  simp [Fc4.commandMove, lowered, h.1.1.2] at hl

theorem Fc4.touchMoveEnds_flow (s : Fc4) : Flow s s.touchMoveEnds := by
  unfold Fc4.touchMoveEnds; dsimp only; split
  · exact .after (Fc4.testStart_flow _) (.after (Fc4.pauseCheck_flow _) (.after (Fc4.answerAsks_flow _ _)
      s.yieldEndsTouch_flow))
  · have h1 := s.releaseDue_flow .moveEnd
    generalize s.releaseDue .moveEnd = u at h1 ⊢
    repeat' split
    all_goals first
      | exact h1.trans (u.endTouch_flow _)
      | exact h1.trans (u.yieldEndsTouch_flow.trans (Fc4.beginYield_flow _))
      | exact h1.trans (u.enterDescent_flow _)
      | exact h1

theorem Fc4.parkMoveEnds_flow (s : Fc4) : Flow s s.parkMoveEnds := by
  have h1 : Flow s { s with motion := { s.motion with park := false } } := .ofMotion rfl rfl rfl
  unfold Fc4.parkMoveEnds; dsimp only; split
  · exact .after (Fc4.testStart_flow _) (.after (Fc4.answerAsks_flow _ _) h1)
  · exact .after (Fc4.releaseDue_flow _ _) h1

/-- The axes stand: a state of the axes that allows every state of Z (R116). -/
theorem Keeps.ofStanding {s : Fc4} {m : Motion} (h : m.axis = .standing) (hz : m.zState = s.motion.zState) :
    Keeps s { s with motion := m } :=
  ⟨id, id, id, id, id, id, id, id, by simp only [Fc4.StimulusOk, hz]; exact id, fun _ => ⟨by simp [h], fun _ => h⟩⟩

theorem Fc4.moveEnds_keeps (s : Fc4) (m : Move) : Keeps s (s.moveEnds m) := by
  have h1 : Keeps s { s with motion := { s.motion with axis := .standing, move := none } } := .ofStanding rfl rfl
  unfold Fc4.moveEnds; dsimp only; split
  · exact (Fc4.touchMoveEnds_flow _).keeps.after h1
  · exact (Fc4.parkMoveEnds_flow _).keeps.after h1
  · exact (Fc4.testStart_flow _).keeps.after ((Fc4.answerAsks_flow _ _).keeps.after h1)

theorem Fc4.carriageStands_keeps (s : Fc4) : Keeps s s.carriageStands :=
  (Fc4.releaseDue_flow _ _).keeps.after (.ofStanding rfl rfl)

theorem Motion.takeReport_states (m : Motion) (a : Axis) (r : AxisReport) :
    (m.takeReport a r).axis = m.axis ∧ (m.takeReport a r).zState = m.zState := by
  unfold Motion.takeReport; cases a <;> exact ⟨rfl, rfl⟩

theorem Fc4.takeReport_keeps (s : Fc4) (a : Axis) (r : AxisReport) :
    Keeps s { s with motion := s.motion.takeReport a r } := by
  have := s.motion.takeReport_states a r
  exact .same (by simp [Fc4.judged, this])

theorem Fc4.axisFaulted_keeps (s : Fc4) : Keeps s s.axisFaulted := by
  unfold Fc4.axisFaulted; repeat' split
  all_goals first | exact .refl s | exact .same rfl | exact s.enterStopped_keeps _ (by simp) | skip
  exact s.reasonAxisFault_keeps ‹_›

/-- Z moves in a touch from one state in which no measurement is under way to another (R116, R158). -/
theorem Keeps.ofDescent {s : Fc4} {m : Motion} (hz : s.motion.zState ≠ .landed)
    (ha : s.MotionOk → m.axis = .standing) : Keeps s { s with motion := m } :=
  ⟨id, id, id, id, id, id, id, id, fun h => ⟨h.1, fun hm => absurd (h.2 hm) hz⟩,
    fun h => ⟨by simp [ha h], fun _ => ha h⟩⟩

theorem Fc4.beginDescent_keeps (s : Fc4) (pad : Pos) (p : Nat) (h : s.canDescend pad = true) :
    Keeps s (s.beginDescent pad p) := by
  simp only [Fc4.canDescend, Bool.and_eq_true, decide_eq_true_eq] at h
  refine .ofDescent (by simp [h.1.1.1.2]) fun _ => ?_
  dsimp only; split <;> exact h.1.1.1.1.1

theorem Fc4.land_keeps (s : Fc4) (e : Entry) (h : s.motion.zState = .search) : Keeps s (s.land e) := by
  refine ⟨id, id, id, id, fun hf => ?_, id, id, fun hh => takeSample_ok _ _ hh,
    fun hs => ⟨hs.1, fun hm => ?_⟩, fun hm => ⟨fun hx => ?_, fun _ => hm.2 (by simp [lowered, h])⟩⟩
  · have : (s.link.fillTouch (s.touchFill e)).fails = s.link.fails := by
      have := s.link.fillTouch_steady (s.touchFill e)
      simp only [Link.steady, Prod.mk.injEq] at this; exact this.2.1
    simpa [Fc4.FailsOk, Fc4.land, this] using hf
  · have := hs.2 hm; simp [h] at this
  · have := hm.2 (by simp [lowered, h]); simp [Fc4.land, this] at hx

/-- A landing followed by a lift: no measurement is under way, for Z was in SEARCH. -/
theorem Fc4.landLift_keeps (s : Fc4) (e : Entry) (h : s.motion.zState = .search) : Keeps s (s.land e).goLift := by
  have k := s.land_keeps e h
  refine ⟨k.reason, k.list, k.queue, k.refusals, k.fails, k.peers, k.keys, k.heights,
    fun hs => ⟨hs.1, fun ha => ?_⟩, fun hm => ⟨fun ha => ?_, fun hl => ?_⟩⟩
  · have := hs.2 ha; simp [h] at this
  · have := hm.2 (by simp [lowered, h]); simp [Fc4.goLift, Fc4.land, Motion.lift, this] at ha
  · simp [Fc4.goLift, Fc4.land, Motion.lift, lowered] at hl

/-- A touchdown and what follows it (R118, R121). -/
theorem Fc4.touchdown_keeps (s : Fc4) (e : Entry) (h : s.motion.zState = .search) :
    Keeps s ((s.land e).afterTouchdown e) := by
  unfold Fc4.afterTouchdown; repeat' split
  · exact .after (Fc4.startSolo_flow _ _).keeps (s.land_keeps e h)
  · exact .after (Fc4.meet_flow _).keeps (.after (Fc4.mapRdv_flow _ _).keeps (s.land_keeps e h))
  · exact s.landLift_keeps e h

/-- The lift is over: Z is raised from a state in which no measurement is under way (R122). -/
theorem Fc4.liftEnded_keeps (s : Fc4) (h : s.motion.zState = .lifting) : Keeps s s.liftEnded := by
  have h1 : Keeps s { s with motion := { s.motion with
      zState := .raised, z := 0, filter := 0, latch := s.motion.latch && s.geo.hold } } :=
    ⟨id, id, id, id, id, id, id, id, fun hs => ⟨hs.1, fun hm => by have := hs.2 hm; simp [h] at this⟩,
      fun _ => ⟨fun _ => rfl, fun hl => by simp [lowered] at hl⟩⟩
  unfold Fc4.liftEnded; dsimp only
  generalize ({ s with motion := { s.motion with
      zState := .raised, z := 0, filter := 0, latch := s.motion.latch && s.geo.hold } } : Fc4) = u at h1 ⊢
  repeat' split
  all_goals first
    | exact (u.endTouch_flow _).keeps.after h1
    | exact u.yieldIfReady_flow.keeps.after h1
    | exact u.closeCheck_flow.keeps.after h1
    | exact .after (Fc4.yieldIfReady_flow _).keeps (u.closeCheck_flow.keeps.after h1)
    | exact .after (Fc4.parkProceeds_flow _).keeps (u.yieldIfReady_flow.keeps.after h1)

/-! ### The measurement -/

/-- A measurement goes on: one under way goes on under way, or ends with its stimulus off (R142, R158). -/
theorem Keeps.ofMeasuring {s : Fc4} {m : Meas} (ha : s.meas.active = true)
    (h : m.active = true ∨ (m.stimulus = none ∧ m.active = false)) : Keeps s { s with meas := m } :=
  ⟨id, id, id, id, id, id, id, id,
    fun hs => ⟨fun hx => h.elim id fun hn => by simp [hn.1] at hx, fun _ => hs.2 ha⟩, id⟩

theorem Meas.goSettling_active (m : Meas) (r : Nat) (now : Time) : (m.goSettling r now).active = true := by
  simp [Meas.active, Meas.goSettling]

theorem Meas.goTiming_active (m : Meas) (r : Nat) (now : Time) : (m.goTiming r now).active = true := by
  simp [Meas.active, Meas.goTiming]

theorem Meas.between_active (m : Meas) (due : Time) : (m.goDischarging .between due).active = true := by
  simp [Meas.active, Meas.purposeIs, Meas.goDischarging]

theorem Meas.conclude_off (m : Meas) (a : Arithmetic) (now : Time) :
    (m.conclude a now).stimulus = none ∧ (m.conclude a now).active = false := by
  simp [Meas.conclude, Meas.goDischarging, Meas.active, Meas.purposeIs]

theorem Meas.rangeOn_active (m : Meas) (b : Nat) (now : Time) : (m.rangeOn b now).active = true := by
  unfold Meas.rangeOn; dsimp only; split
  · exact Meas.goSettling_active _ _ _
  · simp [Meas.active]

theorem Meas.checkB_active (m : Meas) (code : Nat) (now : Time) (h : m.state = .settling) :
    (m.checkB code now).active = true := by
  unfold Meas.checkB; dsimp only; repeat' split
  · exact Meas.rangeOn_active _ _ _
  · simp [Meas.active, h]
  · exact Meas.rangeOn_active _ _ _

theorem Meas.converterSample_goes (m : Meas) (code : Nat) (now : Time)
    (h : m.state = .zeroing ∨ m.state = .integrating) :
    (m.converterSample code now).active = true ∨
    ((m.converterSample code now).stimulus = none ∧ (m.converterSample code now).active = false) := by
  unfold Meas.converterSample; dsimp only
  rcases h with h | h <;> simp only [h] <;> split
  · exact .inl (by simp [Meas.active])
  · exact .inl (Meas.goSettling_active _ _ _)
  · exact .inl (by simp [Meas.active])
  · exact .inr (Meas.conclude_off _ _ _)

theorem Meas.endTiming_goes (m : Meas) (t : Option Nat) (stray : Nat) (now : Time) :
    (m.endTiming t stray now).active = true ∨
    ((m.endTiming t stray now).stimulus = none ∧ (m.endTiming t stray now).active = false) := by
  unfold Meas.endTiming; dsimp only; repeat' split
  · exact .inl (Meas.between_active _ _)
  · exact .inr (Meas.conclude_off _ _ _)
  · exact .inl (Meas.between_active _ _)
  · exact .inl (Meas.between_active _ _)

/-! ### Commands -/

theorem Fc4.setMode_keeps (s : Fc4) (m : Mode) (h : s.ctl.mode ≠ .stopped) (hm : m ≠ .stopped) : Keeps s (s.setMode m) :=
  .ofCtl rfl rfl fun hr => by simpa [Fc4.ReasonOk, h, hm] using hr

theorem commandEffect_keeps {c : Command} {t : Station} {taken : Fc4 → Bool} {f : Fc4 → Fc4} (s : Fc4)
    (h : taken s = true → Keeps s (f s)) : Keeps s (commandEffect c t taken f s) := by
  unfold commandEffect; repeat' split
  · exact (Fc4.reportCommand_keeps _ _ _).after (h ‹_›)
  · exact s.reportCommand_keeps _ _
  · exact .refl s

theorem Results.refuse_ok (r : Results) (id : Nat) (c : RefusalCode)
    (h : r.refusals.length ≤ refusalMax ∧ r.overflow ≤ 255) :
    (r.refuse id c).refusals.length ≤ refusalMax ∧ (r.refuse id c).overflow ≤ 255 := by
  unfold Results.refuse; split
  · refine ⟨?_, h.2⟩
    simp only [List.length_append, List.length_singleton]; omega
  · exact ⟨h.1, Nat.min_le_left _ _⟩

theorem Results.refuse_queue (r : Results) (id : Nat) (c : RefusalCode) : (r.refuse id c).queue = r.queue := by
  unfold Results.refuse; split <;> rfl

theorem entryOf_defer {own : Station} {r : LoadRecord} {e : Entry} (h : entryOf own r = some e) : e.deferCount = 0 := by
  unfold entryOf at h; dsimp only at h
  repeat' split at h
  all_goals simp_all
  all_goals obtain ⟨t, -, rfl⟩ := h; rfl

/-- An accepted record has a new id, a new tag, a defer count of 0, and room (R70). -/
theorem Fc4.judgeRecord_ok {s : Fc4} {r : LoadRecord} {e : Entry} (h : s.judgeRecord r = .ok e) :
    e.deferCount = 0 ∧ s.work.list.length < listMax ∧ (∀ o ∈ s.work.list, o.id ≠ e.id) ∧
    (e.terms.isSome = true → ∀ o ∈ s.work.list, o.terms.map PairTerms.tag ≠ e.terms.map PairTerms.tag) := by
  unfold Fc4.judgeRecord at h
  split at h
  · cases h
  · rename_i e' he
    repeat' split at h
    all_goals first | (cases h; done) | skip
    rename_i h1 h2 h3 h4
    simp only [Except.ok.injEq] at h
    subst h
    refine ⟨entryOf_defer he, by omega, ?_, ?_⟩
    · simpa using h3
    · intro hs; simpa [hs] using h4

theorem Fc4.loadRecord_keeps (s : Fc4) (r : LoadRecord) : Keeps s (s.loadRecord r) := by
  unfold Fc4.loadRecord; split
  · rename_i e h
    obtain ⟨hd, hlen, hid, htag⟩ := Fc4.judgeRecord_ok h
    refine ⟨id, fun hl => ⟨?_, ?_, ?_, ?_⟩, id, id, id, id, id, id, id, id⟩
    · simp only [Fc4.mapList_work, List.length_append, List.length_singleton]; omega
    · simp only [Fc4.mapList_work, List.map_append, List.map_cons, List.map_nil]
      exact hl.2.1.append (by simp) (by simpa using fun o ho => hid o ho)
    · simp only [Fc4.mapList_work, List.filterMap_append]
      cases ht : e.terms.map PairTerms.tag with
      | none => simpa only [List.filterMap_cons, ht, List.filterMap_nil, List.append_nil] using hl.2.2.1
      | some tag =>
        simp only [List.filterMap_cons, ht, List.filterMap_nil]
        refine hl.2.2.1.append (by simp) ?_
        simp only [List.disjoint_singleton, List.mem_filterMap, not_exists, not_and]
        intro o ho hot
        refine htag ?_ o ho (hot.trans ht.symm)
        cases hx : e.terms <;> simp_all
    · simp only [Fc4.mapList_work, List.mem_append, List.mem_singleton]
      rintro x (hx | rfl)
      · exact hl.2.2.2 x hx
      · simp [hd]
  · exact ⟨id, id, fun h => by rw [Fc4.QueueOk, Results.refuse_queue]; exact h, fun h => Results.refuse_ok _ _ _ h, id, id, id, id,
      id, id⟩

theorem Fc4.loadRecords_keeps (rs : List LoadRecord) : ∀ s : Fc4, Keeps s (rs.foldl Fc4.loadRecord s) := by
  induction rs with
  | nil => exact Keeps.refl
  | cons r rs ih => exact fun s => .after (ih _) (s.loadRecord_keeps r)

theorem Fc4.load_keeps (s : Fc4) (rs : List LoadRecord) : Keeps s (s.load rs) := by
  unfold Fc4.load; split
  · exact s.reportCommand_keeps _ _
  · exact .after (Fc4.testStart_flow _).keeps ((Fc4.reportCommand_keeps _ _ _).after (Fc4.loadRecords_keeps rs s))

theorem Fc4.pauseNow_keeps (s : Fc4) (h : s.ctl.mode ≠ .stopped) : Keeps s s.pauseNow :=
  .after (Fc4.refreshWaiting_flow _).keeps (.after (Fc4.pauseCheck_flow _).keeps (s.setMode_keeps _ h (by simp)))

theorem Fc4.purge_keeps (s : Fc4) : Keeps s (s.mapList (fun _ => [])) :=
  ⟨id, fun h => h.of_sublist (List.nil_sublist _), id, id, id, id, id, id, id, id⟩

theorem Fc4.parkNow_flow (s : Fc4) : Flow s s.parkNow := by
  unfold Fc4.parkNow; split
  · exact .refl s
  · exact .after (Fc4.parkProceeds_flow _) (.ofMotion rfl rfl rfl)

theorem Fc4.clearStop_keeps (s : Fc4) : Keeps s s.clearStop := by
  have h1 : Keeps s (if s.ctl.reason = .axisFault then s.releaseDue .axisFaultCleared else s) := by
    split
    · exact (s.releaseDue_flow _).keeps
    · exact .refl s
  unfold Fc4.clearStop; dsimp only
  refine .after ?_ h1
  exact ⟨fun _ => by simp [Fc4.ReasonOk], id, id, id, id, id, id, id, id, id⟩

end Sys2Proof.Machine
end

