-- ==== Sys2Proof/Laws/Held.lean ====
section
/-! SUPPORT. What the effects of the rows keep of the held area and the held lines (HeldOk of Safety.lean): one lemma per
effect that is no flow. -/

namespace Sys2Proof.Machine

/-- The held area and lines are in order in `t` where they are in `s`. -/
def Holds (s t : Fc4) : Prop := s.HeldOk → t.HeldOk

theorem Holds.refl (s : Fc4) : Holds s s := id

theorem Holds.after {s t u : Fc4} (g : Holds t u) (h : Holds s t) : Holds s u := g ∘ h

/-- A change of nothing that HeldOk reads, where it opens no rendezvous in STARTING. -/
theorem Holds.same {s t : Fc4} (h : t.heldView = s.heldView)
    (r : s.ctl.mode = .starting → s.pair.rdv = none → t.pair.rdv = none := by
      first | exact fun _ => id | exact fun _ _ => rfl | (intro _ hr; simp [hr])) : Holds s t := fun k => k.same h r

theorem onlyIf_holds {c : Bool} {f : Fc4 → Fc4} {s : Fc4} (h : c = true → Holds s (f s)) : Holds s (onlyIf c f s) := by
  unfold onlyIf; split
  · exact h ‹_›
  · exact .refl s

/-! ### The link -/

theorem Link.steady_join {l m : Link} (h : l.steady = m.steady) : l.join = m.join := by
  simp only [Link.steady, Prod.mk.injEq] at h; exact h.2.2.2.2.1

@[simp] theorem Link.fillStatus_join (l : Link) : l.fillStatus.join = l.join := by
  unfold Link.fillStatus Link.noteRefill; split <;> rfl

@[simp] theorem Link.fillBeacon_join (l : Link) : l.fillBeacon.join = l.join := by
  unfold Link.fillBeacon Link.noteRefill; split <;> rfl

@[simp] theorem Link.completeFrame_join (l : Link) (b : Bool) : (l.completeFrame b).join = l.join := by
  unfold Link.completeFrame; dsimp only
  repeat' split
  all_goals first | rfl | (rename_i f _ _ _; cases f.content <;> rfl)

theorem Fc4.fillStatus_holds (s : Fc4) : Holds s s.fillStatus := .same (by simp [Fc4.heldView])

theorem Fc4.fillBeacon_holds (s : Fc4) (due : Time) : Holds s (s.fillBeacon due) := .same (by simp [Fc4.heldView])

theorem Fc4.reportCommand_holds (s : Fc4) (c : Command) (o : CommandOutcome) : Holds s (s.reportCommand c o) :=
  .after (Fc4.fillStatus_holds _) (.same rfl)

theorem Fc4.completeFrame_holds (s : Fc4) (b : Bool) : Holds s { s with link := s.link.completeFrame b } :=
  .same (by simp [Fc4.heldView])

theorem Fc4.lineUsed_holds (s : Fc4) : Holds s s.lineUsed := .same rfl

theorem Fc4.complete_holds (s : Fc4) : Holds s s.complete := (Fc4.lineUsed_holds _).after (s.completeFrame_holds true)

/-- A change of mode and stop reason to which no trusted area belongs, and none of STARTING. -/
theorem Holds.ofCtl {s : Fc4} {c : Ctl} (h : c.mode = .stopped ∧ (c.reason = .axisFault ∨ c.reason = .linkCutoff ∨
    c.reason = .dupStation) ∨ c.mode = .cfgFault) : Holds s { s with ctl := c } := by
  intro k
  refine ⟨fun a => ?_, fun hm => ?_, fun hm => ?_, fun hm => ?_, k.lines⟩
  · rcases a with a | ⟨a, a1, a2, a3⟩ <;> rcases h with ⟨h, hr⟩ | h
    · simp [h, working] at a
    · simp [h, working] at a
    · simp only at a1 a2 a3
      rcases hr with hr | hr | hr <;> contradiction
    · simp [h] at a
  all_goals rcases h with ⟨h, -⟩ | h <;> simp [h] at hm

/-- A stop with a reason that keeps no area trusted, from any mode. -/
theorem Fc4.stopBlocks_holds (s : Fc4) (r : StopReason)
    (h : r = .axisFault ∨ r = .linkCutoff ∨ r = .dupStation) : Holds s (s.stopBlocks r) := by
  intro k
  have g : ({ s with ctl := { s.ctl with mode := .stopped, reason := r, axisFaulted := decide (r = .axisFault) } } : Fc4).HeldOk :=
    Holds.ofCtl (.inl ⟨rfl, h⟩) k
  unfold Fc4.stopBlocks; dsimp only
  generalize ({ s with ctl := { s.ctl with mode := .stopped, reason := r, axisFaulted := decide (r = .axisFault) } } : Fc4) = s1 at g ⊢
  have f2 : Flow s1 s1.stopReservation.stopPair.requeueTouch :=
    .after (Fc4.requeueTouch_flow _) (.after (Fc4.stopPair_flow _) s1.stopReservation_flow)
  generalize s1.stopReservation.stopPair.requeueTouch = s2 at f2 ⊢
  have f3 : Holds s2 { s2 with
      work := { s2.work with waiting := false }, meas := s2.meas.abort s2.now
      motion := s2.motion.stopAxes.stopZ (decide ((s2.meas.abort s2.now).state = MeasState.idle)) } :=
    fun k => (k.stop _).ofMeas (s2.meas.abort_switches s2.now).1 (s2.meas.abort_switches s2.now).2
  exact f3 (f2.held g)

theorem Fc4.enterStopped_holds (s : Fc4) (r : StopReason)
    (h : r = .axisFault ∨ r = .linkCutoff ∨ r = .dupStation) : Holds s (s.enterStopped r) :=
  (s.enterStopped_flow_blocks r).held ∘ s.stopBlocks_holds r h

theorem working_of_ne {m : Mode} (h1 : m ≠ .starting) (h2 : m ≠ .cfgFault) (h3 : m ≠ .stopped) : working m = true := by
  cases m <;> simp_all [working]

theorem Fc4.countFailure_holds (s : Fc4) : Holds s s.countFailure := by
  have h0 : Holds s { s with link := { s.link with fails := 0 } } := .same rfl
  unfold Fc4.countFailure; dsimp only; repeat' split
  · exact .same rfl
  · rename_i hw
    exact fun k => (Fc4.enterStopped_flow { s with link := { s.link with fails := 0 } } .linkFault (by simp) hw).held (h0 k)
  · exact h0

theorem Fc4.duplicate_holds (s : Fc4) : Holds s s.duplicate := by
  unfold Fc4.duplicate; repeat' split
  all_goals first | exact .refl s | exact .same rfl | exact .ofCtl (by simp [*]) | exact s.enterStopped_holds _ (by simp)

theorem Fc4.cutOffMode_holds (s : Fc4) : Holds s s.cutOffMode := by
  unfold Fc4.cutOffMode; repeat' split
  all_goals first | exact .refl s | exact .same rfl | exact .ofCtl (by simp [*]) | exact s.enterStopped_holds _ (by simp)

theorem Fc4.trustNoPeer_holds (s : Fc4) : Holds s s.trustNoPeer := (Fc4.pairRecheck_flow _).held ∘ (Holds.same rfl)

theorem Fc4.offer_holds (s : Fc4) (rivals : List Byte) : Holds s (s.offer rivals) := by
  have h1 : Holds s s.examineOffer := by
    unfold Fc4.examineOffer; split
    · exact s.offerExamination_flow.held
    · exact .refl s
  unfold Fc4.offer; dsimp only; split
  · refine Holds.after ?_ h1
    unfold Fc4.beginFrame; dsimp only; repeat' split
    all_goals first | exact .refl _ | exact .same rfl
  · exact h1

/-! ### Frames heard -/

theorem Fc4.heardFrom_holds (s : Fc4) (hdr : Header) (b : Bool) (f : PeerRecord → PeerRecord) (c : Fc4 → Fc4)
    (hc : ∀ t, Holds t (c t)) : Holds s (s.heardFrom hdr b f c) := by
  unfold Fc4.heardFrom; repeat' split
  · exact (Fc4.recheck_flow _).held ∘ s.duplicate_holds
  · exact s.recheck_flow.held
  · exact (Fc4.recheck_flow _).held ∘ (Fc4.pairRecheck_flow _).held ∘ hc _ ∘ (Holds.same rfl)

theorem Fc4.peerSilent_holds (s : Fc4) (peer : Station) (r : PeerRecord) : Holds s (s.peerSilent peer r) := by
  unfold Fc4.peerSilent; dsimp only; split
  · exact (Fc4.endAsk_flow _).held ∘ (Holds.same rfl)
  · exact .same rfl

theorem Fc4.beaconHeard_holds (s : Fc4) (p : Station) (b : BeaconBody) : Holds s (s.beaconHeard p b) := by
  unfold Fc4.beaconHeard; repeat' split
  all_goals first | exact .refl s | exact s.endAsk_flow.held

theorem Fc4.releaseHeard_holds (s : Fc4) (p : Station) (b : ReleaseBody) : Holds s (s.releaseHeard p b) := by
  have h : ∀ u : Fc4, Holds u (u.havenAnswer p) := by
    intro u; unfold Fc4.havenAnswer; repeat' split
    all_goals first | exact .refl u | exact (u.giveUp_flow _).held
  unfold Fc4.releaseHeard; repeat' split
  all_goals first | exact .refl s | exact s.endAsk_flow.held | exact h _ ∘ s.endAsk_flow.held

theorem Fc4.askHeard_holds (s : Fc4) (p t : Station) (b : Box) : Holds s (s.askHeard p t b) := by
  have h : ∀ u : Fc4, Holds u (u.admitAsk p b) := by
    intro u; unfold Fc4.admitAsk; dsimp only; split
    · exact .same rfl
    · exact (Fc4.yieldFallsDue_flow _).held ∘ (Holds.same rfl)
  unfold Fc4.askHeard; repeat' split
  all_goals first | exact .refl s | exact h _ | exact h _ ∘ s.endAsk_flow.held

theorem Fc4.touchHeard_holds (s : Fc4) (p : Station) (b : TouchBody) : Holds s (s.touchHeard p b) := by
  have h1 : Holds s (({ s with pair := { s.pair with notes := noteTouch s.pair.notes p.val b } }).peerSample b) := by
    unfold Fc4.peerSample; split <;> exact .same rfl
  unfold Fc4.touchHeard; dsimp only
  generalize ({ s with pair := { s.pair with notes := noteTouch s.pair.notes p.val b } }).peerSample b = u at h1 ⊢
  repeat' split
  all_goals first | exact h1 | exact (u.endRendezvous_flow _ _).held ∘ h1

theorem Fc4.joinedHeard_holds (s : Fc4) (p t : Station) (tag : Nat) : Holds s (s.joinedHeard p t tag) := by
  unfold Fc4.joinedHeard; repeat' split
  all_goals first | exact .refl s | exact s.startMeasuring_flow.held | exact (s.mapRdv_flow _).held

theorem Fc4.doneHeard_holds (s : Fc4) (p t : Station) (tag : Nat) : Holds s (s.doneHeard p t tag) := by
  have h1 : Holds s (s.dropNote p) := .same rfl
  unfold Fc4.doneHeard; dsimp only
  generalize s.dropNote p = u at h1 ⊢
  repeat' split
  all_goals first | exact h1 | exact u.sensed_flow.held ∘ h1 | exact (u.endRendezvous_flow _ _).held ∘ h1

theorem Fc4.abandonHeard_holds (s : Fc4) (p t : Station) (tag : Nat) : Holds s (s.abandonHeard p t tag) := by
  have h1 : Holds s (s.dropNote p) := .same rfl
  unfold Fc4.abandonHeard; dsimp only
  generalize s.dropNote p = u at h1 ⊢
  repeat' split
  all_goals first
    | exact h1
    | exact (u.endRendezvous_flow _ _).held ∘ h1
    | exact (u.removeAbandoned_flow _ _).held ∘ h1

/-! ### Own frames -/

/-- The held state is replaced by one that covers the carriage, and switches off its lines open (R41, R160). -/
theorem Fc4.enforceOwnLines_holds {s t : Fc4} {b : Box} (hs : t = { s with
      resv := { s.resv with heldBox := some b, heldLines := t.resv.heldLines }, view := t.view, link := t.link })
    (hj : t.link.join = s.link.join) (hc : s.AreaTrusted → s.Covers b) : Holds s t.enforceOwnLines := by
  intro k
  have e : ({ t with meas := t.meas.enforceLines (holdsLine t.resv.heldLines) (fun _ => true) } : Fc4).HeldOk := by
    rw [hs]
    refine ⟨fun a => ⟨(k.covered a).1, (k.covered a).2.1, b, rfl, hc a⟩, k.starts, fun hm h => k.joins hm (hj ▸ h),
      fun hm => ⟨(k.unpaired hm).1, ?_, ?_⟩, fun l h => ?_, fun l h => ?_⟩
    · simp [Meas.enforceLines, (k.unpaired hm).2.1]
    · simp [Meas.enforceLines, (k.unpaired hm).2.2]
    · exact (Option.filter_eq_some_iff.mp h).2
    · exact (Option.filter_eq_some_iff.mp h).2
  exact (Fc4.noteSwitches_flow _).held e

theorem Fc4.complete_join (s : Fc4) : s.complete.link.join = s.link.join := by
  simp [Fc4.complete, Fc4.lineUsed]

theorem Fc4.claimCompletes_holds (s : Fc4) (fr : OwnFrame) (f : ClaimFill) (h : s.AreaTrusted → s.Covers f.box) :
    Holds s (s.claimCompletes fr f) := by
  have h1 : Holds s (s.complete.takeClaim f).enforceOwnLines :=
    Fc4.enforceOwnLines_holds (b := f.box) rfl s.complete_join h
  unfold Fc4.claimCompletes; dsimp only
  refine (Fc4.recheck_flow _).held ∘ (Fc4.closeCheck_flow _).held ∘ (Fc4.dropLinesIfDone_flow _).held ∘
    (Fc4.flushRelease_flow _).held ∘ ?_
  split
  · exact (Fc4.reportGrant_flow _ _ _).held ∘ h1
  · exact (Fc4.strayGrant_flow _ _).held ∘ h1

theorem Fc4.takeRelease_holds (s : Fc4) (f : ReleaseFill) (h : s.AreaTrusted → s.Covers f.box) :
    Holds s (s.complete.takeRelease f).enforceOwnLines :=
  Fc4.enforceOwnLines_holds (b := f.box) rfl s.complete_join h

theorem Fc4.releaseCompletes_holds (s : Fc4) (f : ReleaseFill) (h : s.AreaTrusted → s.Covers f.box) :
    Holds s (s.releaseCompletes f) :=
  (Fc4.recheck_flow _).held ∘ (Fc4.closeCheck_flow _).held ∘ (Fc4.dropLinesIfDone_flow _).held ∘
    (Fc4.claimLosesLines_flow _ _).held ∘ s.takeRelease_holds f h

theorem Fc4.resultsLeave_holds (s : Fc4) (n : Nat) : Holds s (s.resultsLeave n) := by
  unfold Fc4.resultsLeave
  exact (Fc4.testPacking_flow _).held ∘ (Fc4.testStart_flow _).held ∘ (Fc4.handOver_flow _).held ∘ (Holds.same rfl)

/-! ### Start-up -/

theorem Fc4.preparationEnd_holds (s : Fc4) : Holds s s.preparationEnd := by
  unfold Fc4.preparationEnd; repeat' split
  · rename_i p _ hp _ _
    intro k
    exact ⟨k.covered, k.starts, fun _ _ => by simp [Fc4.openJoin, hp], k.unpaired, k.lines⟩
  all_goals first
    | exact .refl s
    | exact (Fc4.fillStatus_holds _) ∘ (Fc4.fillBeacon_holds _ _) ∘ (Holds.ofCtl (.inr rfl))

theorem Fc4.judge_holds (s : Fc4) (g : Option ImageConfig) (h : s.ctl.mode = .starting) : Holds s (s.judge g) := by
  intro k
  refine Fc4.preparationEnd_holds _ ⟨fun a => ?_, k.starts, k.joins, k.unpaired, k.lines⟩
  simp [Fc4.AreaTrusted, h, working] at a

theorem Fc4.stopWaitOver_holds (s : Fc4) (h : s.ctl.mode = .starting) (hr : s.receiving = true) :
    Holds s s.stopWaitOver := by
  intro k
  refine Fc4.preparationEnd_holds _ ⟨fun a => ?_, fun _ _ => ⟨hr, ?_⟩, fun hm hj => by simp, k.unpaired, k.lines⟩
  · simp [Fc4.AreaTrusted, h, working] at a
  · cases hf : s.anyAxisFault
    · exact .inr ⟨rfl, rfl, hf⟩
    · exact .inl (by simp)

theorem Fc4.endReset_holds (s : Fc4) (st : Straps) (h : s.ctl.resetHold.isSome = true) (hp : s.ctl.startPos = none) :
    Holds s (s.endReset st) := by
  intro k
  refine ⟨fun a => ?_, fun _ hn => absurd hp hn, k.joins, k.unpaired, k.lines⟩
  have := (k.covered a).1
  simp [Fc4.receiving] at this
  simp [this.1] at h

@[simp] theorem Fc4.releaseDue_meas (s : Fc4) (c : ReleaseCause) : (s.releaseDue c).meas = s.meas := by
  unfold Fc4.releaseDue Fc4.fillReleaseFor; repeat' split
  all_goals rfl

/-- A stop leaves the force and return switches as they were, or open (R161). -/
theorem Fc4.stopBlocks_switches (s : Fc4) (r : StopReason) :
    ((s.stopBlocks r).meas.forceSw = none ∨ (s.stopBlocks r).meas.forceSw = s.meas.forceSw) ∧
    ((s.stopBlocks r).meas.retSw = none ∨ (s.stopBlocks r).meas.retSw = s.meas.retSw) := by
  unfold Fc4.stopBlocks; dsimp only
  generalize hs1 : ({ s with ctl := { s.ctl with mode := .stopped, reason := r, axisFaulted := _ } } : Fc4) = s1
  have h1 : s1.meas = s.meas := by subst hs1; rfl
  have h2 : s1.stopReservation.stopPair.requeueTouch.meas.forceSw = s.meas.forceSw ∧
      s1.stopReservation.stopPair.requeueTouch.meas.retSw = s.meas.retSw := by
    unfold Fc4.requeueTouch Fc4.stopPair Fc4.stopReservation; dsimp only
    repeat' split
    all_goals simp [Fc4.clearTouch, Fc4.mapList, h1]
  generalize s1.stopReservation.stopPair.requeueTouch = s2 at h2 ⊢
  have h3 := s2.meas.abort_switches s2.now
  rw [h2.1, h2.2] at h3
  simpa using h3

theorem Fc4.stopBlocks_mode (s : Fc4) (r : StopReason) :
    (s.stopBlocks r).ctl.mode = .stopped ∧ (s.stopBlocks r).ctl.reason = r := by
  unfold Fc4.stopBlocks; dsimp only
  generalize hs1 : ({ s with ctl := { s.ctl with mode := .stopped, reason := r, axisFaulted := _ } } : Fc4) = s1
  have h1 : s1.ctl.mode = .stopped ∧ s1.ctl.reason = r := by subst hs1; exact ⟨rfl, rfl⟩
  have h2 : s1.stopReservation.stopPair.requeueTouch.ctl = s1.ctl := by
    unfold Fc4.requeueTouch Fc4.stopPair Fc4.stopReservation; dsimp only
    repeat' split
    all_goals simp [Fc4.clearTouch, Fc4.mapList]
  simpa [h2] using h1

/-- Where no area is trusted and the station is not in STARTING, the held lines are all that is asked. -/
theorem Fc4.HeldOk.untrusted {t : Fc4} (h : ¬ t.AreaTrusted) (hm : t.ctl.mode ≠ .starting)
    (hl : (∀ l, t.meas.forceSw = some l → holdsLine t.resv.heldLines l = true) ∧
      (∀ l, t.meas.retSw = some l → holdsLine t.resv.heldLines l = true)) : t.HeldOk :=
  ⟨fun a => absurd a h, fun e => absurd e hm, fun e => absurd e hm, fun e => absurd e hm, hl⟩

/-- What a stop leaves of mode, reason, held lines and the fault seen in STARTING. -/
theorem Fc4.stopBlocks_ctl (s : Fc4) (r : StopReason) (hr : r ≠ .noReason) :
    (s.stopBlocks r).resv.heldLines = s.resv.heldLines ∧ (s.stopBlocks r).motion.faultSeen = s.motion.faultSeen := by
  have f := (({ s with ctl := { s.ctl with mode := .idle } } : Fc4).stopBlocks_flow r hr rfl).steady
  simp only [Fc4.steady, Motion.steady, Prod.mk.injEq] at f
  exact ⟨f.2.2.2.2.2.2.2.2.2, f.2.2.2.2.2.1.2.2.2.2⟩

/-- The part of HeldOk that speaks of switches. -/
def Fc4.OwnLines (s : Fc4) : Prop :=
  (∀ l, s.meas.forceSw = some l → holdsLine s.resv.heldLines l = true) ∧
  (∀ l, s.meas.retSw = some l → holdsLine s.resv.heldLines l = true)

theorem Fc4.stopBlocks_ownLines (s : Fc4) (r : StopReason) (hr : r ≠ .noReason) (h : s.OwnLines) :
    (s.stopBlocks r).OwnLines := by
  unfold Fc4.OwnLines at *
  rw [(s.stopBlocks_ctl r hr).1]
  have w := s.stopBlocks_switches r
  exact ⟨fun l e => by rcases w.1 with w | w <;> simp only [w] at e <;> first | cases e | exact h.1 l e,
    fun l e => by rcases w.2 with w | w <;> simp only [w] at e <;> first | cases e | exact h.2 l e⟩

theorem Fc4.untrusted_of {t : Fc4} (hm : t.ctl.mode = .stopped)
    (hr : t.ctl.reason = .axisFault ∨ t.ctl.reason = .linkCutoff ∨ t.ctl.reason = .dupStation) (hl : t.OwnLines) :
    t.HeldOk := by
  refine .untrusted ?_ (by simp [hm]) hl
  rintro (a | ⟨-, a1, a2, a3⟩)
  · simp [hm, working] at a
  · rcases hr with hr | hr | hr <;> contradiction

@[simp] theorem Fc4.releaseDue_ctl (s : Fc4) (c : ReleaseCause) : (s.releaseDue c).ctl = s.ctl := by
  unfold Fc4.releaseDue Fc4.fillReleaseFor; repeat' split
  all_goals rfl

@[simp] theorem Fc4.releaseDue_heldLines (s : Fc4) (c : ReleaseCause) :
    (s.releaseDue c).resv.heldLines = s.resv.heldLines := by
  unfold Fc4.releaseDue Fc4.fillReleaseFor; repeat' split
  all_goals rfl

/-- A stop for an axis fault leaves no area trusted (R64). -/
theorem Fc4.axisFault_heldOk (s : Fc4) (h : s.OwnLines) : (s.enterStopped .axisFault).HeldOk := by
  have m := s.stopBlocks_mode .axisFault
  have o := s.stopBlocks_ownLines .axisFault (by simp) h
  rcases s.enterStopped_cases .axisFault with e | e <;> rw [e]
  · exact Fc4.untrusted_of m.1 (.inl m.2) o
  · exact Fc4.untrusted_of (by simpa using m.1) (.inl (by simpa using m.2)) (by simpa [Fc4.OwnLines] using o)

/-- Where no fault was seen in STARTING nothing is acted on. -/
theorem Fc4.actOnFaultSeen_none (v : Fc4) (h : v.motion.faultSeen = false) : Holds v v.actOnFaultSeen := by
  unfold Fc4.actOnFaultSeen; simp only [h]
  exact .same (by simp [Fc4.heldView, h])

/-- A fault seen in STARTING leaves no area trusted (R129, R184). -/
theorem Fc4.actOnFaultSeen_seen (v : Fc4) (h : v.motion.faultSeen = true) (hl : v.OwnLines)
    (hm : v.ctl.mode = .idle ∨ (v.ctl.mode = .stopped ∧
      (v.ctl.reason = .crowded ∨ v.ctl.reason = .linkCutoff ∨ v.ctl.reason = .dupStation))) : v.actOnFaultSeen.HeldOk := by
  unfold Fc4.actOnFaultSeen; dsimp only; rw [if_pos h]; split
  · exact Fc4.untrusted_of (Fc4.stopBlocks_mode _ _).1 (.inl (Fc4.stopBlocks_mode _ _).2)
      (Fc4.stopBlocks_ownLines _ _ (by simp) hl)
  · rename_i hi
    obtain ⟨hs, hr⟩ := hm.resolve_left hi
    split
    · exact Fc4.untrusted_of hs (.inl rfl) hl
    · rename_i hc
      refine Fc4.untrusted_of hs ?_ hl
      rcases hr with hr | hr | hr
      · exact absurd ⟨hs, hr⟩ hc
      · exact .inr (.inl hr)
      · exact .inr (.inr hr)

/-- A mode is chosen, and a fault seen is acted on (R184). -/
theorem Fc4.joinEnd_holds (s : Fc4) (h : s.ctl.mode = .starting) (hj : s.link.join ≠ .closed) : Holds s s.joinEnd := by
  intro k
  have hp := k.joins h hj
  obtain ⟨hr, hs⟩ := k.starts h hp
  unfold Fc4.joinEnd; dsimp only
  refine Fc4.fillStatus_holds _ (Fc4.fillBeacon_holds _ _ ?_)
  generalize hb : standingBox s.geo (s.ctl.startPos.getD s.here) = box
  have k1 : ({ s with resv := { s.resv with heldBox := some box, heldLines := LineRoles.none }
                      link := { s.link with join := .closed } } : Fc4).HeldOk := by
    refine ⟨fun a => ?_, k.starts, by simp, k.unpaired, ?_⟩
    · simp [Fc4.AreaTrusted, h, working] at a
    · simp [(k.unpaired h).2]
  have kc : s.motion.faultSeen = false → ∀ u : Fc4,
      u = { s with resv := { s.resv with heldBox := some box, heldLines := LineRoles.none }
                   link := { s.link with join := .closed } } →
      u.receiving = true ∧ u.anyAxisFault = false ∧ ∃ b, u.resv.heldBox = some b ∧ u.Covers b := by
    rintro hf u rfl
    have h3 : s.ctl.startPos = some s.here ∧ s.motion.axis = .standing ∧ s.anyAxisFault = false := by
      rcases hs with hs | hs
      · simp [hf] at hs
      · exact hs
    refine ⟨hr, h3.2.2, box, rfl, ?_, fun a => ?_, fun a => ?_⟩
    · rw [← hb, h3.1]; simp [inside_iff, Fc4.standing, Fc4.geo, Fc4.here]
    · simp [h3.2.1] at a
    · simp [h3.2.1] at a
  generalize hu : ({ s with resv := { s.resv with heldBox := some box, heldLines := LineRoles.none }
                            link := { s.link with join := .closed } } : Fc4) = u at k1 ⊢
  replace kc := fun hf => kc hf u hu.symm
  have hfs : u.motion.faultSeen = s.motion.faultSeen := by subst hu; rfl
  rw [← hfs] at kc
  have ko : u.OwnLines := k1.lines
  unfold Fc4.chooseMode
  cases hf : u.motion.faultSeen
  · have ki : ({ u with ctl := { u.ctl with mode := .idle } } : Fc4).HeldOk :=
      ⟨fun _ => kc hf, by simp, by simp, by simp, k1.lines⟩
    have hx : ∀ r, r ≠ .noReason → (u.stopBlocks r).motion.faultSeen = false :=
      fun r hr => (u.stopBlocks_ctl r hr).2.trans hf
    repeat' split
    · exact Fc4.actOnFaultSeen_none _ (hx _ (by simp)) (u.stopBlocks_holds .linkCutoff (by simp) k1)
    · exact Fc4.actOnFaultSeen_none _ (hx _ (by simp)) (u.stopBlocks_holds .dupStation (by simp) k1)
    · exact Fc4.actOnFaultSeen_none _ (hx _ (by simp))
        ((({ u with ctl := { u.ctl with mode := .idle } } : Fc4).stopBlocks_flow .crowded (by simp) rfl).held ki)
    · exact Fc4.actOnFaultSeen_none _ hf ki
  · have hx : ∀ r, r ≠ .noReason → (u.stopBlocks r).motion.faultSeen = true :=
      fun r hr => (u.stopBlocks_ctl r hr).2.trans hf
    have hs : ∀ r, r = .crowded ∨ r = .linkCutoff ∨ r = .dupStation → (u.stopBlocks r).actOnFaultSeen.HeldOk := by
      intro r hr
      have hn : r ≠ .noReason := by rcases hr with rfl | rfl | rfl <;> simp
      exact Fc4.actOnFaultSeen_seen _ (hx r hn) (u.stopBlocks_ownLines r hn ko)
        (.inr ⟨(u.stopBlocks_mode r).1, by rw [(u.stopBlocks_mode r).2]; exact hr⟩)
    repeat' split
    · exact hs _ (by simp)
    · exact hs _ (by simp)
    · exact hs _ (by simp)
    · exact Fc4.actOnFaultSeen_seen _ hf ko (.inl rfl)

/-! ### Motion -/

/-- A permitted move is commanded inside the held box (R42, R111). -/
theorem Fc4.commandMove_holds (s : Fc4) (m : Permitted) (ht : s.AreaTrusted)
    (hb : ∃ b, s.resv.heldBox = some b ∧ inside (sweptBox s.geo s.here m.q) b = true) : Holds s (s.commandMove m) := by
  intro k
  obtain ⟨hr, hf, b, hb', hc⟩ := k.covered ht
  obtain ⟨b2, h2, h3⟩ := hb
  obtain rfl : b = b2 := by simpa [hb'] using h2
  refine ⟨fun _ => ⟨hr, hf, b, hb', hc.1, fun _ => ⟨_, rfl, h3, ?_⟩, fun a => ?_⟩, fun hm => ?_, k.joins, k.unpaired, k.lines⟩
  · simp [spanned, between, Fc4.here, Fc4.commandMove]
  · simp [Fc4.commandMove] at a
  · rcases ht with ht | ht
    · simp only [Fc4.commandMove] at hm; simp [hm, working] at ht
    · simp only [Fc4.commandMove] at hm; simp [hm] at ht

/-- The axes stand: what covers the carriage under way covers it standing (R112, R115). -/
theorem Holds.ofStanding {s : Fc4} (f : Option Pos) :
    Holds s { s with motion := { s.motion with axis := .standing, move := none, stopFrom := f } } := by
  intro k
  refine ⟨fun a => ?_, fun hm hp => ?_, k.joins, k.unpaired, k.lines⟩
  · obtain ⟨hr, hf, b, hb, hc, -, -⟩ := k.covered a
    exact ⟨hr, hf, b, hb, hc, by simp, by simp⟩
  · obtain ⟨hr, hs⟩ := k.starts hm hp
    exact ⟨hr, hs.imp id fun ⟨h1, _, h3⟩ => ⟨h1, rfl, h3⟩⟩

theorem Fc4.moveEnds_holds (s : Fc4) (m : Move) : Holds s (s.moveEnds m) := by
  have h1 : Holds s { s with motion := { s.motion with axis := .standing, move := none } } := .ofStanding s.motion.stopFrom
  unfold Fc4.moveEnds; dsimp only; split
  · exact (Fc4.touchMoveEnds_flow _).held ∘ h1
  · exact (Fc4.parkMoveEnds_flow _).held ∘ h1
  · exact (Fc4.testStart_flow _).held ∘ (Fc4.answerAsks_flow _ _).held ∘ h1

theorem Fc4.carriageStands_holds (s : Fc4) : Holds s s.carriageStands :=
  (Fc4.releaseDue_flow _ _).held ∘ Holds.ofStanding none

/-- Where the carriage is in a move, its standing box lies in what the move sweeps (R42). -/
theorem standingBox_swept {g : ImageConfig} {p q v : Pos} {b : Box} (h : inside (sweptBox g p q) b = true)
    (hv : spanned p q v = true) : inside (standingBox g v) b = true := by
  simp only [spanned, Bool.and_eq_true, between_iff, inside_iff, sweptBox, standingBox] at *
  omega

/-- A report that is no fault leaves the covering box covering (R113). -/
theorem Fc4.takeReport_covers (s : Fc4) (a : Axis) (r : AxisReport) (b : Box) (h : s.Covers b)
    (hn : (s.motion.axisRec a).fault = false) (hf : s.motion.faultAfter a r = false) :
    ({ s with motion := s.motion.takeReport a r } : Fc4).Covers b := by
  obtain ⟨h1, h2, h3⟩ := h
  have hal : s.motion.allowedAt a r.pos = true := by
    simp only [Motion.faultAfter, Motion.irregular, hn, Bool.not_false, Bool.true_and, Bool.or_eq_false_iff,
      Bool.not_eq_false'] at hf
    exact hf.1.2
  have e : ∀ p q v : Pos, spanned p q v = true ↔ between p.x q.x v.x = true ∧ between p.y q.y v.y = true := by
    simp [spanned]
  have hsp : ∀ p q, spanned p q s.here = true → between (along a p) (along a q) r.pos = true →
      spanned p q ({ s with motion := s.motion.takeReport a r } : Fc4).here = true := by
    intro p q hs hb
    cases a <;> simp only [e, Fc4.here, Motion.takeReport, along] at *
    · exact ⟨hb, hs.2⟩
    · exact ⟨hs.1, hb⟩
  cases hx : s.motion.axis
  · have hp : ({ s with motion := s.motion.takeReport a r } : Fc4).here = s.here := by
      simp only [Motion.allowedAt, hx, decide_eq_true_eq] at hal
      cases a <;> simp_all [Fc4.here, Motion.takeReport, Motion.axisRec]
    have hax : (s.motion.takeReport a r).axis = .standing := by rw [(s.motion.takeReport_states a r).1, hx]
    refine ⟨?_, by simp [hax], by simp [hax]⟩
    simp only [Fc4.standing, hp]; exact h1
  · obtain ⟨m, hm, hi, hs⟩ := h2 hx
    simp only [Motion.allowedAt, hx, hm] at hal
    have := hsp _ _ hs hal
    have hax : (s.motion.takeReport a r).axis = .moving := by rw [(s.motion.takeReport_states a r).1, hx]
    have hmv : (s.motion.takeReport a r).move = some m := by cases a <;> exact hm
    exact ⟨standingBox_swept hi this, fun _ => ⟨m, hmv, hi, this⟩, by simp [hax]⟩
  · obtain ⟨m, f, hm, hf', hi, hs⟩ := h3 hx
    simp only [Motion.allowedAt, hx, hm, hf'] at hal
    have := hsp _ _ hs hal
    have hax : (s.motion.takeReport a r).axis = .stopping := by rw [(s.motion.takeReport_states a r).1, hx]
    have hmv : (s.motion.takeReport a r).move = some m := by cases a <;> exact hm
    have hst : (s.motion.takeReport a r).stopFrom = some f := by cases a <;> exact hf'
    exact ⟨standingBox_swept hi this, by simp [hax], fun _ => ⟨m, f, hmv, hst, hi, this⟩⟩

theorem Motion.takeReport_fault (m : Motion) (a : Axis) (r : AxisReport) (hx : m.ax.fault = false) (hy : m.ay.fault = false) :
    ((m.takeReport a r).ax.fault || (m.takeReport a r).ay.fault) = m.faultAfter a r := by
  cases a <;> simp [Motion.takeReport, hx, hy]

/-- R113, R114: a drive's report, taken and judged. -/
theorem Fc4.axisReport_holds (s : Fc4) (a : Axis) (r : AxisReport) :
    Holds s (if s.receiving && s.tellsFault a r then
      ({ s with motion := s.motion.takeReport a r } : Fc4).axisFaulted
      else { s with motion := s.motion.takeReport a r }) := by
  intro k
  have hsw : ∀ u : Fc4, u.meas = s.meas → u.resv = s.resv → u.OwnLines := by
    intro u h1 h2; unfold Fc4.OwnLines; rw [h1, h2]; exact k.lines
  have hst := s.motion.takeReport_states a r
  generalize hp1 : ({ s with motion := s.motion.takeReport a r } : Fc4) = p1
  have hfs : p1.motion.faultSeen = s.motion.faultSeen := by subst hp1; cases a <;> rfl
  have hctl : p1.ctl = s.ctl := by subst hp1; rfl
  have hol : p1.OwnLines := by subst hp1; exact hsw _ rfl rfl
  have hun : s.ctl.mode = .starting → p1.pair.rdv = none ∧ p1.meas.forceSw = none ∧ p1.meas.retSw = none := by
    subst hp1; exact k.unpaired
  have hj : s.ctl.mode = .starting → p1.link.join ≠ .closed → s.ctl.startPos ≠ none := by subst hp1; exact k.joins
  have nofault : s.anyAxisFault = false → (s.motion.axisRec a).fault = false := by
    intro h; simp only [Fc4.anyAxisFault, Bool.or_eq_false_iff] at h
    cases a <;> simp [Motion.axisRec, h]
  have any : s.anyAxisFault = false → p1.anyAxisFault = s.motion.faultAfter a r := by
    intro h; simp only [Fc4.anyAxisFault, Bool.or_eq_false_iff] at h
    subst hp1; exact Motion.takeReport_fault _ _ _ h.1 h.2
  have hrec : p1.receiving = s.receiving := by simp only [Fc4.receiving, hctl]
  have tells : (s.motion.axisRec a).fault = false → s.tellsFault a r = s.motion.faultAfter a r := by
    intro h; simp [Fc4.tellsFault, Motion.faultAfter, h]
  by_cases ht : s.AreaTrusted
  · obtain ⟨hr, hf, b, hb, hc⟩ := k.covered ht
    rw [hr, tells (nofault hf)]
    cases hfa : s.motion.faultAfter a r
    · refine ⟨fun _ => ⟨hrec.trans hr, (any hf).trans hfa, b, by subst hp1; exact hb, ?_⟩, fun hm => ?_, fun hm => ?_, fun hm => ?_, hol⟩
      · subst hp1; exact Fc4.takeReport_covers s a r b hc (nofault hf) hfa
      all_goals
        simp only [Bool.true_and, Bool.false_eq_true, if_false, hctl] at hm
        rcases ht with ht | ht <;> simp [hm, working] at ht
    · simp only [Bool.true_and, if_true]
      unfold Fc4.axisFaulted
      rw [hctl]
      rcases ht with ht | ⟨h1, h2, h3, h4⟩
      · cases hm : s.ctl.mode <;> simp only [hm, working] at ht ⊢ <;> first
          | exact absurd ht Bool.false_ne_true
          | exact Fc4.axisFault_heldOk _ hol
      · simp only [h1, h2, h3, h4, or_self, if_false]
        exact Fc4.untrusted_of (by simpa [Fc4.reasonAxisFault, hctl] using h1) (.inl rfl) hol
  · by_cases hm : s.ctl.mode = .starting
    · have base : ∀ u : Fc4, u = { p1 with motion := { p1.motion with faultSeen := true } } →
          s.receiving = true → u.HeldOk := by
        rintro u rfl hr
        refine ⟨fun h => absurd ?_ ht, fun _ _ => ⟨hrec.trans hr, .inl rfl⟩, fun _ => ?_, fun _ => hun hm, hol⟩
        · simpa only [Fc4.AreaTrusted, hctl] using h
        · simpa only [hctl] using hj hm
      split
      · rename_i h
        simp only [Bool.and_eq_true] at h
        have : p1.axisFaulted = { p1 with motion := { p1.motion with faultSeen := true } } := by
          unfold Fc4.axisFaulted; rw [hctl, hm]
        rw [this]; exact base _ rfl h.1
      · rename_i h
        refine ⟨fun h => absurd ?_ ht, fun _ hp => ?_, fun _ => ?_, fun _ => hun hm, hol⟩
        · simpa only [Fc4.AreaTrusted, hctl] using h
        · rw [hctl] at hp
          obtain ⟨hr, hs⟩ := k.starts hm hp
          refine ⟨hrec.trans hr, ?_⟩
          rcases hs with hs | ⟨h1, h2, h3⟩
          · exact .inl (hfs.trans hs)
          · have hfa : s.motion.faultAfter a r = false := by simpa [hr, tells (nofault h3)] using h
            refine .inr ⟨?_, by subst hp1; exact hst.1.trans h2, (any h3).trans hfa⟩
            rw [hctl, h1]
            have hal : s.motion.allowedAt a r.pos = true := by
              simp only [Motion.faultAfter, Motion.irregular, nofault h3, Bool.not_false, Bool.true_and,
                Bool.or_eq_false_iff, Bool.not_eq_false'] at hfa
              exact hfa.1.2
            simp only [Motion.allowedAt, h2, decide_eq_true_eq] at hal
            subst hp1
            cases a <;> simp_all [Fc4.here, Motion.takeReport, Motion.axisRec]
        · simpa only [hctl] using hj hm
    · have hu : ∀ u : Fc4, u.ctl.mode = s.ctl.mode → u.ctl.reason = s.ctl.reason → u.OwnLines → u.HeldOk := by
        intro u h1 h2 h3
        exact .untrusted (by simpa only [Fc4.AreaTrusted, h1, h2] using ht) (by simpa only [h1] using hm) h3
      split
      · unfold Fc4.axisFaulted
        rw [hctl]
        have hw : working s.ctl.mode = false := by
          cases hh : working s.ctl.mode
          · rfl
          · exact absurd (.inl hh) ht
        cases hmm : s.ctl.mode <;> simp only [hmm, working] at hw hm ⊢ <;> first
          | exact absurd trivial hm
          | exact absurd hw.symm Bool.false_ne_true
          | exact hu _ (by rw [hctl]) (by rw [hctl]) hol
          | skip
        split
        · exact hu _ (by rw [hctl]) (by rw [hctl]) hol
        · exact Fc4.untrusted_of (by simp [Fc4.reasonAxisFault, hctl, hmm]) (.inl rfl) hol
      · exact hu _ (by rw [hctl]) (by rw [hctl]) hol

/-! ### Commands -/

theorem Fc4.setMode_holds (s : Fc4) (m : Mode) (h : working s.ctl.mode = true) (hm : working m = true) : Holds s (s.setMode m) := by
  intro k
  have hn : m ≠ .starting := by rintro rfl; simp [working] at hm
  exact ⟨fun _ => k.covered (.inl h), fun e => absurd e hn, fun e => absurd e hn, fun e => absurd e hn, k.lines⟩

theorem commandEffect_holds {c : Command} {t : Station} {taken : Fc4 → Bool} {f : Fc4 → Fc4} (s : Fc4)
    (h : taken s = true → Holds s (f s)) : Holds s (commandEffect c t taken f s) := by
  unfold commandEffect; repeat' split
  · exact (Fc4.reportCommand_holds _ _ _).after (h ‹_›)
  · exact s.reportCommand_holds _ _
  · exact .refl s

theorem Fc4.loadRecords_holds (rs : List LoadRecord) : ∀ s : Fc4, Holds s (rs.foldl Fc4.loadRecord s) := by
  induction rs with
  | nil => exact Holds.refl
  | cons r rs ih =>
    refine fun s => .after (ih _) ?_
    unfold Fc4.loadRecord; split <;> exact .same rfl

theorem Fc4.load_holds (s : Fc4) (rs : List LoadRecord) : Holds s (s.load rs) := by
  unfold Fc4.load; split
  · exact s.reportCommand_holds _ _
  · exact (Fc4.testStart_flow _).held ∘ (Fc4.reportCommand_holds _ _ _) ∘ (Fc4.loadRecords_holds rs s)

/-- An accepted CLEAR trusts the area again (R64, R193, R194). -/
theorem Fc4.clearStop_holds (s : Fc4) (hr : s.receiving = true) (hc : s.judgeClear = .accepted) : Holds s s.clearStop := by
  intro k
  have k1 : (if s.ctl.reason = .axisFault then s.releaseDue .axisFaultCleared else s).HeldOk := by
    split
    · exact (s.releaseDue_flow _).held k
    · exact k
  have hst : (if s.ctl.reason = .axisFault then s.releaseDue .axisFaultCleared else s).steady = s.steady := by
    split
    · exact (s.releaseDue_flow _).steady
    · rfl
  have hw : (if s.ctl.reason = .axisFault then s.releaseDue .axisFaultCleared else s).motion = s.motion ∧
      (if s.ctl.reason = .axisFault then s.releaseDue .axisFaultCleared else s).ctl = s.ctl ∧
      (if s.ctl.reason = .axisFault then s.releaseDue .axisFaultCleared else s).resv.heldBox = s.resv.heldBox := by
    split
    · unfold Fc4.releaseDue Fc4.fillReleaseFor; repeat' split
      all_goals exact ⟨rfl, rfl, rfl⟩
    · exact ⟨rfl, rfl, rfl⟩
  have hcov : s.receiving = true ∧ s.anyAxisFault = false ∧ ∃ b, s.resv.heldBox = some b ∧ s.Covers b := by
    unfold Fc4.judgeClear at hc
    split at hc
    · rename_i hm
      by_cases ha : s.ctl.reason = .axisFault
      · rw [ha] at hc
        simp only at hc
        by_cases h : (s.stopSettled && !s.anyAxisFault && s.positionTrusted) = true
        · simp only [Fc4.positionTrusted, Fc4.stopSettled, Bool.and_eq_true, Bool.not_eq_true', decide_eq_true_eq] at h
          obtain ⟨⟨⟨⟨⟨-, hs⟩, -⟩, -⟩, hf⟩, -, hb⟩ := h
          cases hh : s.resv.heldBox with
          | none => simp [hh] at hb
          | some b => simp only [hh, Option.map_some, Option.getD_some] at hb; exact ⟨hr, hf, b, rfl, hb, by simp [hs], by simp [hs]⟩
        · rw [if_neg h] at hc; cases hc
      · refine k.covered (.inr ⟨hm, ha, ?_, ?_⟩) <;> rintro e <;> simp [e] at hc
    · cases hc
  unfold Fc4.clearStop; dsimp only
  generalize (if s.ctl.reason = .axisFault then s.releaseDue .axisFaultCleared else s) = u at *
  obtain ⟨w1, w2, w3⟩ := hw
  obtain ⟨c1, c2, b, c3, c4⟩ := hcov
  refine ⟨fun _ => ⟨by simpa only [Fc4.receiving, w2] using c1, by simpa only [Fc4.anyAxisFault, w1] using c2, b, w3.trans c3, ?_⟩,
    by simp, by simp, by simp, k1.lines⟩
  simpa only [Fc4.Covers, Fc4.standing, Fc4.geo, Fc4.here, w1, w2] using c4

end Sys2Proof.Machine
end

