-- ==== Sys2Proof/Laws/StartTurns.lean ====
section
/-! SUPPORT. The start test turn by turn (R73, R74, R76, R90): the turns it is allowed are enough, so it does what its
first turn says and tests again. -/

namespace Sys2Proof.Machine

/-- How many more turns the entries of the list can take: a FINISHED entry none, another four less its defer count. -/
def turnsLeft (l : List Entry) : Nat := (l.map (fun e => if e.st = .finished then 0 else 4 - e.deferCount)).sum

/-- At most four turns for each entry. -/
theorem turnsLeft_le (l : List Entry) : turnsLeft l ≤ 4 * l.length := by
  induction l with
  | nil => simp [turnsLeft]
  | cons e l ih => simp only [turnsLeft, List.map_cons, List.sum_cons, List.length_cons] at *; split <;> omega

theorem turnsLeft_append (a b : List Entry) : turnsLeft (a ++ b) = turnsLeft a + turnsLeft b := by
  simp [turnsLeft]

/-- What a start turn needs of the list: no id twice, no defer count above 3. -/
def Fc4.Turnable (s : Fc4) : Prop := (s.work.list.map Entry.id).Nodup ∧ ∀ e ∈ s.work.list, e.deferCount ≤ 3

theorem removeEntry_ids (id : Nat) (l : List Entry) : (removeEntry id l).map Entry.id = (l.map Entry.id).filter (fun i => !decide (i = id)) := by
  simp [removeEntry, List.filter_map, Function.comp_def]

/-- A removed entry takes its turns with it. -/
theorem turnsLeft_removeEntry {e : Entry} {l : List Entry} (hd : (l.map Entry.id).Nodup) (he : e ∈ l)
    (hs : e.st ≠ .finished) (_hc : e.deferCount ≤ 3) : turnsLeft (removeEntry e.id l) + (4 - e.deferCount) = turnsLeft l := by
  induction l with
  | nil => cases he
  | cons a l ih =>
    rw [List.map_cons, List.nodup_cons] at hd
    rcases List.mem_cons.1 he with rfl | h
    · have : removeEntry e.id (e :: l) = l := by
        simp only [removeEntry, List.filter_cons, decide_true, Bool.not_true, Bool.false_eq_true, if_false]
        rw [List.filter_eq_self]
        intro x hx
        have : x.id ≠ e.id := fun h => hd.1 (h ▸ List.mem_map_of_mem hx)
        simp [this]
      rw [this]; simp only [turnsLeft, List.map_cons, List.sum_cons, if_neg hs]; omega
    · have ha : a.id ≠ e.id := fun h' => hd.1 (h' ▸ List.mem_map_of_mem h)
      have : removeEntry e.id (a :: l) = a :: removeEntry e.id l := by simp [removeEntry, ha]
      rw [this]; have := ih hd.2 h
      simp only [turnsLeft, List.map_cons, List.sum_cons] at *; omega

/-- An entry that becomes FINISHED takes its turns with it. -/
theorem turnsLeft_setFinished {e : Entry} {l : List Entry} {f : Entry → Entry} (hf : ∀ x, (f x).st = .finished) (he : e ∈ l)
    (hs : e.st ≠ .finished) (hc : e.deferCount ≤ 3) : turnsLeft (setEntry e.id f l) < turnsLeft l := by
  induction l with
  | nil => cases he
  | cons a l ih =>
    have le : ∀ m : List Entry, turnsLeft (setEntry e.id f m) ≤ turnsLeft m := by
      intro m; induction m with
      | nil => simp [turnsLeft, setEntry]
      | cons b m ihm =>
        simp only [turnsLeft, setEntry, List.map_cons, List.sum_cons] at *
        by_cases hb : b.id = e.id
        · rw [if_pos hb, if_pos (hf b)]; omega
        · rw [if_neg hb]; omega
    rcases List.mem_cons.1 he with rfl | h
    · have := le l
      simp only [turnsLeft, setEntry, List.map_cons, List.sum_cons, if_true, if_pos (hf e), if_neg hs] at *; omega
    · have := ih h
      simp only [turnsLeft, setEntry, List.map_cons, List.sum_cons] at *
      by_cases hb : a.id = e.id
      · rw [if_pos hb, if_pos (hf a)]; omega
      · rw [if_neg hb]; omega

/-- A deferral keeps what the turns need, and uses a turn (R76). -/
theorem Fc4.deferEntry_turn {s : Fc4} {e : Entry} (h : s.Turnable) (he : e ∈ s.work.list) (hs : e.st ≠ .finished)
    (hc : e.deferCount < 3) : (s.deferEntry e).Turnable ∧ turnsLeft (s.deferEntry e).work.list < turnsLeft s.work.list := by
  have e1 : (s.deferEntry e).work.list = removeEntry e.id s.work.list ++ [{ e with deferCount := e.deferCount + 1, st := .queued }] := rfl
  refine ⟨⟨?_, ?_⟩, ?_⟩
  · rw [e1, List.map_append, removeEntry_ids, List.nodup_append]
    refine ⟨h.1.filter _, by simp, ?_⟩
    intro a ha b hb
    simp only [List.map_cons, List.map_nil, List.mem_singleton] at hb
    simp only [List.mem_filter, Bool.not_eq_true', decide_eq_false_iff_not] at ha
    rw [hb]; exact ha.2
  · intro x hx
    rw [e1, List.mem_append, List.mem_singleton] at hx
    rcases hx with hx | rfl
    · exact h.2 x (List.mem_of_mem_filter hx)
    · show e.deferCount + 1 ≤ 3; omega
  · have := turnsLeft_removeEntry h.1 he hs (by omega)
    rw [e1, turnsLeft_append]
    simp only [turnsLeft, List.map_cons, List.map_nil, List.sum_cons, List.sum_nil] at *
    simp; omega

/-- The list after a result (R75). -/
theorem Fc4.produceResult_list (s : Fc4) (id : Nat) (r : ResultRecord) : (s.produceResult id r).work.list =
    if s.queueRoom && !s.work.list.any isFinished then removeEntry id s.work.list
    else setEntry id (fun e => { e with st := .finished, held := some r }) s.work.list := by
  unfold Fc4.produceResult; split
  · unfold Fc4.joinQueue Fc4.testPacking; split <;> rfl
  · rfl

/-- A result does too (R75). -/
theorem Fc4.produceResult_turn {s : Fc4} {e : Entry} (r : ResultRecord) (h : s.Turnable) (he : e ∈ s.work.list)
    (hs : e.st ≠ .finished) : (s.produceResult e.id r).Turnable ∧
      turnsLeft (s.produceResult e.id r).work.list < turnsLeft s.work.list := by
  have hc := h.2 e he
  unfold Fc4.Turnable; rw [s.produceResult_list]
  split
  · refine ⟨⟨?_, fun x hx => h.2 x (List.mem_of_mem_filter hx)⟩, ?_⟩
    · rw [removeEntry_ids]; exact h.1.filter _
    · have := turnsLeft_removeEntry h.1 he hs hc; omega
  · refine ⟨⟨?_, ?_⟩, turnsLeft_setFinished (fun _ => rfl) he hs hc⟩
    · have : (setEntry e.id (fun e => { e with st := .finished, held := some r }) s.work.list).map Entry.id = s.work.list.map Entry.id := by
        simp only [setEntry, List.map_map]; apply List.map_congr_left; intro x _; simp only [Function.comp]; split <;> rfl
      rw [this]; exact h.1
    · intro x hx
      simp only [setEntry, List.mem_map] at hx
      obtain ⟨y, hy, rfl⟩ := hx
      have := h.2 y hy
      split <;> exact this

/-- The front entry stands in the list and is not FINISHED (R72). -/
theorem Fc4.front_open {s : Fc4} {e : Entry} (h : s.front = some e) : e ∈ s.work.list ∧ e.st ≠ .finished := by
  have := List.find?_some h
  exact ⟨List.mem_of_find?_eq_some h, by simpa using this⟩

/-- A deferred entry has been deferred fewer than three times (R76). -/
theorem Fc4.deferCount_of_defer {s : Fc4} {e : Entry} (hd : s.startDecision e = .defer) : e.deferCount < 3 := by
  have hda : s.deferAllowed e = true := by
    unfold Fc4.startDecision at hd
    repeat' (split at hd)
    all_goals first | (cases hd; done) | assumption | (rename_i h; exact h.2.2)
  simp only [Fc4.deferAllowed, Bool.and_eq_true, decide_eq_true_eq] at hda
  exact hda.1

/-- With turns enough for the entries left, the number of turns allowed does not matter. -/
theorem startTurns_enough : ∀ (n m : Nat) (s : Fc4), s.Turnable → turnsLeft s.work.list < n →
    turnsLeft s.work.list < m → startTurns n s = startTurns m s := by
  intro n
  induction n with
  | zero => intro m s _ h; omega
  | succ n ih =>
    intro m s hs hn hm
    obtain ⟨m, rfl⟩ : ∃ k, m = k + 1 := ⟨m - 1, by omega⟩
    simp only [startTurns]
    cases hf : s.front with
    | none => rfl
    | some e =>
      obtain ⟨he, hst⟩ := Fc4.front_open hf
      cases hd : s.startDecision e with
      | go => dsimp only; rw [hd]
      | defer =>
        have hc := Fc4.deferCount_of_defer hd
        obtain ⟨t1, t2⟩ := Fc4.deferEntry_turn hs he hst hc
        dsimp only; rw [hd]; dsimp only; rw [ih m _ t1 (by omega) (by omega)]
      | lost =>
        obtain ⟨t1, t2⟩ := Fc4.produceResult_turn (buildResult e .partnerLost none none) hs he hst
        dsimp only; rw [hd]; dsimp only; rw [ih m _ t1 (by omega) (by omega)]

/-- What the start test does where a turn is taken, and where none is (R73, R74, R76, R90). -/
theorem Fc4.testStart_turn (s : Fc4) :
    (s.canStart = false → s.testStart = s.refreshWaiting) ∧
    (∀ e, s.canStart = true → s.front = some e →
      (s.startDecision e = .go → s.testStart = (s.activate e).refreshWaiting) ∧
      (s.Turnable → (s.startDecision e = .defer → s.testStart = (s.deferEntry e).testStart) ∧
        (s.startDecision e = .lost →
          s.testStart = (s.produceResult e.id (buildResult e .partnerLost none none)).testStart))) := by
  refine ⟨fun h => ?_, fun e h hf => ⟨fun hd => ?_, fun ht => ⟨fun hd => ?_, fun hd => ?_⟩⟩⟩
  · unfold Fc4.testStart; rw [startTurns]; rw [if_neg (by simp [h])]
  · unfold Fc4.testStart; rw [startTurns]; rw [if_pos h, hf]; dsimp only; rw [hd]
  · obtain ⟨he, hst⟩ := Fc4.front_open hf
    have hc := Fc4.deferCount_of_defer hd
    obtain ⟨t1, t2⟩ := Fc4.deferEntry_turn ht he hst hc
    conv_lhs => unfold Fc4.testStart; rw [startTurns]
    rw [if_pos h, hf]; dsimp only; rw [hd]; dsimp only
    have := turnsLeft_le s.work.list
    have := turnsLeft_le (s.deferEntry e).work.list
    rw [startTurns_enough _ (4 * (s.deferEntry e).work.list.length + 1) _ t1 (by omega) (by omega)]; rfl
  · obtain ⟨he, hst⟩ := Fc4.front_open hf
    obtain ⟨t1, t2⟩ := Fc4.produceResult_turn (buildResult e .partnerLost none none) ht he hst
    conv_lhs => unfold Fc4.testStart; rw [startTurns]
    rw [if_pos h, hf]; dsimp only; rw [hd]; dsimp only
    have := turnsLeft_le s.work.list
    have := turnsLeft_le (s.produceResult e.id (buildResult e .partnerLost none none)).work.list
    rw [startTurns_enough _ (4 * (s.produceResult e.id (buildResult e .partnerLost none none)).work.list.length + 1) _ t1 (by omega) (by omega)]; rfl

end Sys2Proof.Machine
end

