-- ==== Sys2Proof/Tests/Slice0.lean ====
section
/-! SUPPORT. Our own tests: worked values of the spec, ill-formed operands, single rows on a small part, and for each
statement with hypotheses a part and operands that meet them. The part is station 11 on the top side, with the geometry
of the introduction's worked box arithmetic. -/

namespace Sys2Proof.Tests

open Sys2Proof Sys2Proof.Machine

/-! ### The part -/

/-- The geometry of chapter 00, and the heights, k and stray of the worked sequences of chapters 06 and 08. -/
def cfg : ImageConfig :=
  { reach := ⟨100000, 600000, 50000, 450000⟩, fx := 20000, fy := 15000, clearance := 5000, haven := ⟨200000, 100000⟩
    nominal := 12000, margin := 600, depth := 1000, overloadLevel := 800, hold := true, samples := 4, stray := 45700 }

def pad201 : Pos := ⟨300000, 200000⟩

/-- The standing box at the pad of entry 201 (chapter 04). -/
def box201 : Box := ⟨275000, 325000, 180000, 220000⟩

/-- Station 11, IDLE at the pad of entry 201, 600 ms after its reset. -/
def idle : Fc4 :=
  let p := Fc4.afterReset (ms 600) ⟨⟨300000, true, false⟩, ⟨200000, true, false⟩, 0⟩ (.afterReset .powerOn none 11 .top 0)
  { p with
    ctl := { p.ctl with mode := .idle, config := some cfg, judgement := .valid, startPos := some pad201 }
    motion := { p.motion with axis := .standing }
    meas := { p.meas with state := .idle, discharge := none, dischargeOn := false, k := some 4 }
    resv := { p.resv with heldBox := some box201 } }

def inMode (m : Mode) (r : StopReason) (p : Fc4) : Fc4 := { p with ctl := { p.ctl with mode := m, reason := r } }
def onLink (f : Link → Link) (p : Fc4) : Fc4 := { p with link := f p.link }
def onResv (f : Resv → Resv) (p : Fc4) : Fc4 := { p with resv := f p.resv }
def onMotion (f : Motion → Motion) (p : Fc4) : Fc4 := { p with motion := f p.motion }
def onMeas (f : Meas → Meas) (p : Fc4) : Fc4 := { p with meas := f p.meas }
def onView (f : View → View) (p : Fc4) : Fc4 := { p with view := f p.view }

/-- The own frame `c` is on the line. -/
def sending (c : OnAir) (withdrawn : Bool) : Fc4 → Fc4 := onLink fun l => { l with onLine := some ⟨c, 5, [], 0, withdrawn, false⟩ }

/-- Entries 201, 202 and 204 of chapter 04's worked sequence. -/
def e201 : Entry := ⟨201, pad201, .capr, none, 1000000, 1500000, none, none, 0, .queued, none⟩
def e202 : Entry := ⟨202, ⟨310000, 250000⟩, .cont, some ⟨.source, 4, 77⟩, 0, 1000, none, none, 0, .queued, none⟩
def e204 : Entry := ⟨204, ⟨400000, 300000⟩, .capr, none, 0, 800000, none, none, 0, .queued, none⟩

/-- RUNNING with this list and no touch. -/
def listed (l : List Entry) : Fc4 := { inMode .running .noReason idle with work := ⟨l, none, false⟩ }

/-- RUNNING with the touch of `e` in progress, entry 204 behind it. -/
def touching (e : Entry) (stage : Stage) (o : Option TouchOutcome) : Fc4 :=
  { inMode .running .noReason idle with work := ⟨[{ e with st := .active }, e204], some ⟨e.id, stage, o, none, none⟩, false⟩ }

/-- The rendezvous of entry 202. -/
def meeting (st : RdvState) (role : Role) : Rendezvous :=
  { state := st, tag := 77, partner := 4, role, kind := .cont, timer := some (ms 600), forceLine := none, retLine := none
    connected := false, joinedHeard := false, roleChecked := false, outcome := none, quiet := false, ending := none
    endingDone := false }

/-- Station 4 as its frames have shown it: PRESENT, landed with tag 77, holding ML1 and ML2. -/
def peer4 : PeerRecord :=
  { presence := .present, side := some .top, mode := some .running, reach := none, held := some ⟨400000, 450000, 200000, 300000⟩
    lines := ⟨some .ml1, some .ml2⟩, frontTag := 77, landed := true, atHaven := false, lastSeq := 15, lastHeard := ms 592
    frozen := none }

/-- The paired touch of entry 202, landed. -/
def paired (r : Rendezvous) : Fc4 :=
  let p := touching e202 .measure none
  { p with pair := ⟨some r, []⟩, view := { p.view with peers := [(4, peer4)] }, motion := { p.motion with zState := .landed } }

/-- The claim of entry 204's move from pad 201, and the LINE claim of entry 202. -/
def wide : ClaimFill := ⟨⟨275000, 425000, 180000, 320000⟩, ⟨none, none⟩, 0⟩
def moveClaim : Claim := ⟨.move, wide.box, wide.lines, 0, .touchList, ⟨400000, 300000⟩⟩
def lineClaim : Claim := ⟨.line, box201, ⟨some .ml1, some .ml2⟩, 77, .pairUnit, pad201⟩
def claiming (c : Option Claim) : Fc4 → Fc4 := onResv fun r => { r with claim := c }

/-- The part after one row. -/
def after (i : Instr) (p : Fc4) : Fc4 :=
  match exec i ⟨[], p⟩ with
  | .next t => t.part
  | _ => p

def hdr4 : Header := ⟨4, 0⟩

/-- The part hears a frame of payload length `len` that ends now. -/
def hears (len : Nat) (p : Fc4) : Bool := (p.elapse 0).hears (frameTime len)

/-! ### Worked values of the spec -/

/-- R4: over the bytes 49 to 57 the check is 29B1, sent as 177 then 41. -/
theorem test_crc_of_the_nine_digits :
    crcBytes ([49, 50, 51, 52, 53, 54, 55, 56, 57].map byteOf) = [byteOf 177, byteOf 41] := by decide +kernel

/-- Chapter 00, worked box arithmetic. -/
theorem test_worked_boxes :
    standingBox cfg ⟨200000, 100000⟩ = ⟨175000, 225000, 80000, 120000⟩ ∧
    sweptBox cfg ⟨200000, 100000⟩ ⟨300000, 90000⟩ = ⟨175000, 325000, 70000, 120000⟩ ∧
    overlaps ⟨325000, 400000, 0, 200000⟩ ⟨175000, 325000, 70000, 120000⟩ = true ∧
    overlaps ⟨326000, 400000, 0, 200000⟩ ⟨175000, 325000, 70000, 120000⟩ = false ∧
    allowed cfg ⟨125000, 430000⟩ = true ∧ allowed cfg ⟨124999, 430000⟩ = false ∧ allowed cfg ⟨575000, 70000⟩ = true ∧
    allowed cfg ⟨575000, 69999⟩ = false := by decide

/-- Chapter 01, worked sequence: contention values and winners; chapter 11: 75. -/
theorem test_contention :
    contentionValue .release 7 = 23 ∧ contentionValue .claim 3 = 51 ∧ contentionValue .beacon 12 = 124 ∧
    contentionValue .touch 11 = 75 ∧ winsLine (byteOf 23) [byteOf 51, byteOf 124] = true ∧
    winsLine (byteOf 51) [byteOf 124] = true ∧ winsLine (byteOf 124) [byteOf 51] = false := by decide

/-- Chapter 11, the TOUCH of entry 201: its bytes before the check, its length and its time on the line, 33.75 µs. -/
theorem test_touch_frame_of_entry_201 :
    frameHead 4 11 5 0 (touchPayload ⟨.top, none, pad201, 12430, 0⟩) =
      [75, 80, 10, 0, 224, 147, 4, 212, 48, 142, 48, 0, 0].map byteOf ∧ 100 * frameTime 10 = 3375 * us 1 := by decide

/-- Chapter 07, one cell through its samples, and the prediction from three neighbours and from two. -/
theorem test_height_table :
    blend (some ⟨3, 12400⟩) 12430 = ⟨4, 12408⟩ ∧ blend (some ⟨4, 12408⟩) 12520 = ⟨5, 12430⟩ ∧
    blend (some ⟨6, 12432⟩) 12410 = ⟨7, 12429⟩ ∧ blend (some ⟨7, 12429⟩) 12600 = ⟨7, 12450⟩ ∧
    predict [(cellKey 9 5, ⟨2, 12300⟩), (cellKey 9 6, ⟨7, 12450⟩), (cellKey 11 7, ⟨1, 12610⟩)] 0 ⟨340000, 205000⟩ = 12453 ∧
    predict [(cellKey 9 5, ⟨2, 12300⟩), (cellKey 11 7, ⟨1, 12451⟩)] 0 ⟨340000, 205000⟩ = 12376 := by decide

/-- Chapter 08: the CONT case, the rows of the ranging table, the CAPR case and its two variants. -/
theorem test_measured_values :
    average 96031 4 = 24008 ∧ resistance 24008 12 1 = ⟨79987, false, false⟩ ∧ verdictOf 0 1000 79987 = .failHigh ∧
    resistance 62488 12 5 = ⟨2082533333, false, false⟩ ∧ resistance 1902 12 0 = ⟨630, false, false⟩ ∧
    resistance 62010 12 1 = ⟨206660, false, false⟩ ∧ resistance 9 12 0 = ⟨0, true, false⟩ ∧
    resistance 65535 12 5 = ⟨4294967295, false, true⟩ ∧ settled 23870 24000 = false ∧ settled 23995 24000 = true ∧
    average 5000 4 = 1250 ∧ capacitance 1250 1 45700 = ⟨1204300, false, false⟩ ∧
    capacitance 1250 1 1300000 = ⟨0, true, false⟩ := by decide

/-- R148: 60,000 and 3,000 are in range; range 1 is left for 2 only where 2 is untried. -/
theorem test_ranging :
    classifyReading 60000 = .inRange ∧ classifyReading 60001 = .over ∧ classifyReading 3000 = .inRange ∧
    classifyReading 2999 = .under ∧ nextRange 5 1 [2, 1] .over = none ∧ nextRange 5 1 [1] .over = some 2 ∧
    nextRange 5 5 [5] .over = none ∧ nextRange 5 0 [0] .under = none := by decide

/-! ### Ill-formed operands are refused -/

theorem test_ill_formed_positions_and_boxes :
    Pos.wf ⟨1048576, 0⟩ = false ∧ Pos.wf ⟨1048575, 1048575⟩ = true ∧ Box.wf ⟨2, 1, 0, 0⟩ = false ∧
    Box.wf ⟨0, 1048576, 0, 0⟩ = false ∧ AxisReport.wf ⟨1048576, true, false⟩ = false ∧
    CarriageReading.wf ⟨⟨0, true, false⟩, ⟨0, true, false⟩, 40001⟩ = false ∧ fits 1 256 = false ∧ fits 2 65535 = true := by decide

def beacon : BeaconBody :=
  ⟨.top, .running, .noReason, none, some box201, ⟨none, none⟩, 77, true, false, false, false, 2, 0, 0⟩

theorem test_ill_formed_payloads :
    beacon.wf = true ∧ ({ beacon with mode := .starting }).wf = false ∧ ({ beacon with reach := some ⟨2, 1, 0, 0⟩ }).wf = false ∧
    ({ beacon with lines := ⟨some .ml2, some .ml2⟩ }).wf = false ∧ ({ beacon with frontTag := 65536 }).wf = false ∧
    ClaimBody.wf ⟨.top, box201, ⟨some .ml1, some .ml1⟩, 0⟩ = false ∧
    ReleaseBody.wf ⟨.top, false, box201, ⟨none, none⟩, 256⟩ = false ∧
    TouchBody.wf ⟨.top, none, ⟨0, 1048576⟩, 0, 0⟩ = false := by decide

/-- Record 203 of chapter 04: CAPR at (590,000, 200,000). -/
def r203 : LoadRecord := ⟨203, 3, 0, false, false, 0, 0, ⟨590000, 200000⟩, 0, 800000, 0, 0⟩
def r204 : LoadRecord := { r203 with touchId := 204, pad := ⟨400000, 300000⟩ }

theorem test_ill_formed_rows :
    r203.wf = true ∧ ({ r203 with kindCode := 8 }).wf = false ∧ ({ r203 with low := 4294967296 }).wf = false ∧
    loadWf [] = false ∧ loadWf [r203, r204] = true ∧ loadWf [r203, r204, r203] = false ∧ unknownCode 7 = false ∧
    unknownCode 8 = true ∧ unknownCode 0 = true ∧ (Instr.imageJudged 0 []).wf = false ∧
    (Instr.statusHeard 0 ⟨0, 0⟩).wf = false ∧ (Instr.touchReceived 0 ⟨0, 0⟩ ⟨.top, none, pad201, 0, 0⟩).wf = false ∧
    (Instr.abandonReceived 0 hdr4 11 256 77).wf = false ∧ (Instr.peerSilence 0 0).wf = false ∧
    (Instr.yieldShadowExpiry 0 0).wf = false ∧ (Instr.unknownCommand 0 0 7).wf = false := by decide

/-! ### Single rows -/

/-- Chapter 04: record 203 is refused with UNREACHABLE, record 204 is appended, the LOAD's outcome is ACCEPTED. -/
theorem test_load_of_the_worked_sequence :
    (after (.loadReceived 0 11 [r203, r204]) (listed [])).results.refusals = [(203, .unreachable)] ∧
    (after (.loadReceived 0 11 [r203, r204]) (listed [])).results.last = some (.load, .accepted) ∧
    (after (.loadReceived 0 11 [r203, r204]) (listed [])).work.list.map Entry.id = [204] := by decide

/-- Chapter 10: a QUERY in STARTING is BUSY; at the end of the join window the standing box is held in IDLE. -/
theorem test_start_up :
    (after (.query 0 11) (inMode .starting .noReason idle)).results.last = some (.query, .busy) ∧
    (after (.joinWindowEnd 0) (onLink (fun l => { l with join := .running (ms 600) }) (inMode .starting .noReason idle))).ctl.mode = .idle := by
  decide

/-- R63: CROWDED at the end of the join window fills nothing, also where the X drive has reported another position. -/
theorem test_crowded_fills_no_release :
    let p := onMotion (fun m => { m with ax := { m.ax with pos := 310000 } })
      (onLink (fun l => { l with join := .running (ms 600) }) (onView (fun v => { v with
        peers := [(4, { peer4 with held := some box201 })] }) (inMode .starting .noReason idle)))
    (after (.joinWindowEnd 0) p).ctl.reason = .crowded ∧ (after (.joinWindowEnd 0) p).resv.heldBox = some box201 ∧
    (after (.joinWindowEnd 0) p).link.release = none := by decide

/-- Chapter 02 at time 900: a beacon in order after a first CLAIM makes the record PRESENT, and all lines rest. -/
theorem test_peer_record_becomes_present :
    let p := after (.claimReceived 0 ⟨9, 6⟩ ⟨.top, ⟨300000, 380000, 200000, 260000⟩, ⟨none, none⟩, 0⟩) idle
    let q := after (.beaconReceived (us 900) ⟨9, 7⟩ beacon) p
    (p.record 9).map PeerRecord.presence = some .unsure ∧ (q.record 9).map PeerRecord.presence = some .present ∧
    q.view.rests.ml3 = some (ms 600 + us 1100) := by decide

/-- Chapter 06, worked sequence: t is 11,800 and L is 13,400. -/
theorem test_descent_targets :
    (after (.descentBegin 0) (onMotion (fun m => { m with handed := some (pad201, 12400) }) (touching e201 .descent none))).motion.descent
      = some ⟨pad201, 12400, 11800, 13400⟩ := by decide

/-! ### Witnesses: a part and operands that meet the hypotheses of each statement, clause by clause -/

/-- A front row is taken, and the part goes on to another mode (START from IDLE). -/
theorem witness_ModeChangesFollowTheRules :
    exec (.start 0 11) ⟨[], idle⟩ = .next ⟨[], after (.start 0 11) idle⟩ ∧ idle.ctl.mode = .idle ∧
    (after (.start 0 11) idle).ctl.mode = .running := ⟨rfl, by decide, by decide⟩

theorem witness_StopReasonStandsOnlyInStopped :
    idle.ReasonOk ∧ step ⟨[.halt 0 0], idle⟩ = .next ⟨[], after (.halt 0 0) idle⟩ ∧
    (after (.halt 0 0) idle).ctl.reason = .halt :=
  ⟨by unfold Fc4.ReasonOk; decide, rfl, by decide⟩

/-- A full refusal list, a failure count of 2, a full queue and a list of two, before a LOAD that is refused. -/
def full : Fc4 :=
  let p := listed [e201, e202];
  { p with link := { p.link with fails := 2 }
           results := { p.results with
             queue := List.replicate 64 ⟨⟨1, .capr, .noContact, none, MeasFlags.none, none, none⟩, 0⟩
             refusals := List.replicate 4 (203, .unreachable), overflow := 255 } }

theorem witness_ListsQueuesAndCountsStayInBounds :
    (full.ListOk ∧ full.QueueOk ∧ full.RefusalsOk ∧ full.FailsOk) ∧
    step ⟨[.loadReceived 0 11 [r203]], full⟩ = .next ⟨[], after (.loadReceived 0 11 [r203]) full⟩ :=
  ⟨by unfold Fc4.ListOk Fc4.QueueOk Fc4.RefusalsOk Fc4.FailsOk; decide, rfl⟩

/-- Tables with an entry of station 4 and a filled cell, before its silence. -/
def known : Fc4 :=
  { idle with
    view := { idle.view with peers := [(4, peer4)] }
    resv := { idle.resv with asks := [(4, box201)], shadows := [⟨4, box201, ms 600⟩] }
    pair := { idle.pair with notes := [(4, ⟨77, some .sense⟩)] }, heights := [(cellOf pad201, ⟨7, 12429⟩)] }

theorem witness_TablesKeepTheirForm :
    (known.PeersOk ∧ known.KeysOk ∧ known.HeightsOk) ∧
    step ⟨[.peerSilence 0 4], known⟩ = .next ⟨[], after (.peerSilence 0 4) known⟩ :=
  ⟨by unfold Fc4.PeersOk Fc4.KeysOk Fc4.HeightsOk; decide, rfl⟩

/-- A CAPR measurement of the landed touch of entry 201 is under way at range 1, its first timing begun 125 µs ago. -/
def timing : Fc4 :=
  let p := touching e201 .measure none;
  { p with motion := { p.motion with zState := .landed }
           meas := { p.meas.begin .touchList ⟨.capr, 1000000, 1500000, some 1⟩ (ms 600) with timingFrom := ms 600 - us 125 } }

/-- In a move from the haven, half way, with the swept box held and stated by the own RELEASE on the line. -/
def carried : Fc4 :=
  let box := sweptBox cfg cfg.haven pad201
  let p := sending (.release ⟨box, ⟨none, none⟩, 0, false⟩) false (onResv (fun r => { r with heldBox := some box }) idle);
  { p with motion := { p.motion with axis := .moving, move := some ⟨cfg.haven, pad201, .park⟩
                                     ax := { p.motion.ax with pos := 250000 } } }

theorem covers_carried : carried.Covers (sweptBox cfg cfg.haven pad201) :=
  ⟨by decide, fun _ => ⟨⟨cfg.haven, pad201, .park⟩, rfl, by decide, by decide⟩, fun h => absurd h (by decide)⟩

/-- A landed measurement; a move under way with the RELEASE of its box on the line; a permitted move. -/
theorem witness_StimulusAndMotionStaySafe :
    ((timing.StimulusOk ∧ timing.MotionOk) ∧ timing.meas.stimulus = some 1 ∧
      step ⟨[.timingCrossing 0], timing⟩ = .next ⟨[], after (.timingCrossing 0) timing⟩) ∧
    (carried.InHand ∧ carried.HeldOk ∧
      step ⟨[.releaseCompleted 0], carried⟩ = .next ⟨[], after (.releaseCompleted 0) carried⟩) ∧
    (onResv (fun r => { r with heldBox := some wide.box })
      (onMotion (fun m => { m with permitted := some ⟨⟨400000, 300000⟩, .touch⟩ }) idle)).InHand := by
  refine ⟨⟨by unfold Fc4.StimulusOk Fc4.MotionOk; decide, by decide, rfl⟩, ⟨⟨?_, ?_, ?_⟩, ⟨?_, ?_, ?_, ?_, ?_⟩, rfl⟩, ⟨?_, ?_, ?_⟩⟩
  · rintro f r h hr -
    obtain rfl : OwnFrame.mk (.release ⟨sweptBox cfg cfg.haven pad201, ⟨none, none⟩, 0, false⟩) 5 [] 0 false false = f :=
      Option.some.inj h
    injection hr with e
    exact e ▸ covers_carried
  · rintro f c h hc -; cases h; cases hc
  · intro m h; cases h
  · exact fun _ => ⟨by decide, by decide, _, rfl, covers_carried⟩
  · intro h; exact absurd h (by decide)
  · intro h; exact absurd h (by decide)
  · intro h; exact absurd h (by decide)
  · exact ⟨fun l h => absurd h (by decide +revert), fun l h => absurd h (by decide +revert)⟩
  · intro f r h; cases h
  · intro f r h; cases h
  · intro m h; cases h; exact ⟨.inl (by decide), _, rfl, by decide⟩

/-- Rows at the ends of their fields, as station 3 hears them; the clauses on frames that fail; frames of stations 3, 4
and 0 of each kind that a clause names; and frames of the right length whose coded field is the last with a meaning, or
the first with none. -/
theorem witness_FramesAreHeardAsSent :
    (let far : Instr := .touchReceived 0 ⟨15, 15⟩ ⟨.bottom, some .sense, ⟨1048575, 1048575⟩, 65535, 65535⟩;
      let cmd : Instr := .reset 0 0 ⟨0, .top⟩ readingAtReset;
      (far.wf = true ∧ (rowFrame 0 far).isSome = true ∧ rowTime far = 0 ∧ (15 : Station) ≠ 3) ∧
      (cmd.wf = true ∧ (rowFrame 15 cmd).isSome = true ∧ rowTime cmd = 0)) ∧
    (60 < (byteOf 61).toNat ∧ [byteOf 0, byteOf 1] ≠ crcBytes [byteOf 4, byteOf 0, byteOf 0]) ∧
    (let at3 := fun sender code payload =>
        frameRow 3 ⟨0, ⟨3, .top⟩, readingAtReset⟩ (.passed (frameHead code sender 0 0 payload));
      at3 3 7 [] = .dupStationFrame 0 ∧ at3 4 11 [] = .unassignedFrame 0 hdr4 ∧ at3 4 0 [] = .invalidSenderFrame 0 hdr4 ∧
      at3 0 7 [] = .invalidSenderFrame 0 ⟨0, 0⟩ ∧ at3 0 0 [byteOf 1] = .malformedFrame 0 ⟨0, 0⟩ ∧
      at3 4 5 [] = .malformedFrame 0 hdr4 ∧ at3 4 8 (List.replicate 10 (byteOf 0)) = .statusHeard 0 hdr4 ∧
      at3 4 10 [byteOf 0] = .malformedFrame 0 hdr4 ∧ at3 0 9 [byteOf 1] = .malformedFrame 0 ⟨0, 0⟩) ∧
    (let bad := fun code payload => decide (frameRow 3 ⟨0, ⟨3, .top⟩, readingAtReset⟩
        (.passed (frameHead code 4 0 0 payload)) = .malformedFrame 0 hdr4);
      let claim := fun box lines => [byteOf 0] ++ boxBytes box ++ [byteOf lines, byteOf 0, byteOf 0];
      let news := fun mode stop => [byteOf 0, byteOf mode, byteOf stop] ++ List.replicate 27 (byteOf 0);
      let touch := fun role => byteOf (2 * role) :: List.replicate 9 (byteOf 0);
      let pair := fun op => byteOf op :: List.replicate 3 (byteOf 0);
      bad 3 (claim ⟨7, 7, 9, 9⟩ 33) = false ∧ bad 3 (claim ⟨7, 6, 9, 9⟩ 33) = true ∧ bad 3 (claim ⟨7, 7, 9, 8⟩ 33) = true ∧
      bad 3 (claim ⟨7, 7, 9, 9⟩ 4) = false ∧ bad 3 (claim ⟨7, 7, 9, 9⟩ 5) = true ∧ bad 3 (claim ⟨7, 7, 9, 9⟩ 80) = true ∧
      bad 3 (claim ⟨7, 7, 9, 9⟩ 0) = false ∧ bad 3 (claim ⟨7, 7, 9, 9⟩ 17) = true ∧
      bad 7 (news 1 0) = false ∧ bad 7 (news 0 0) = true ∧ bad 7 (news 6 7) = false ∧ bad 7 (news 7 0) = true ∧
      bad 7 (news 6 8) = true ∧ bad 4 (touch 2) = false ∧ bad 4 (touch 3) = true ∧
      bad 5 (pair 3) = false ∧ bad 5 (pair 0) = true ∧ bad 5 (pair 4) = true) := by decide +kernel

/-- A part that is silent for each reason; one that offers nothing; one with a STATUS whose rival is lower, and with an
equal rival; a CLAIM in the slot with no claim, one that passes and one that fails; every slot filled, in RUNNING and in
CFG_FAULT; a paired front entry. -/
theorem witness_OfferBeginsTheLowestFrame :
    (∀ p ∈ [onLink (fun l => { l with linkDown := some 0 }) idle, onLink (fun l => { l with cutOff := true }) idle,
        onLink (fun l => { l with idleFrom := ms 600 + 1 }) idle, sending .beacon false idle,
        inMode .starting .noReason idle], p.mayOffer = false) ∧
    (idle.mayOffer = true ∧ (idle.elapse 0).examineOffer.offeredSlot = none) ∧
    (idle.fillStatus.mayOffer = true ∧ (idle.fillStatus.elapse 0).examineOffer.offeredSlot = some .status ∧
      (∃ r ∈ [byteOf 138], r.toNat < contentionValue .status idle.own) ∧
      ∀ r ∈ [byteOf 139, byteOf 255], contentionValue .status idle.own ≤ r.toNat) ∧
    (let p := onLink (fun l => { l with claim := some wide }) idle;
      p.offeredSlot = some .claim ∧ p.resv.claim = none ∧
      (claiming (some moveClaim) p).offeredSlot = some .claim ∧ (claiming (some moveClaim) p).claimPasses wide.box wide.lines = true ∧
      (claiming (some moveClaim) { p with view := { p.view with peers := [(4, peer4)] } }).claimPasses wide.box wide.lines = false) ∧
    (let l := fun l : Link => { l with
        release := some ⟨box201, ⟨none, none⟩, 4, false⟩, ask := some ⟨4, box201⟩, claim := some wide
        touch := some ⟨pad201, 12430, 0, none⟩, pair := some ⟨.done, none, 77, 4⟩, beacon := true, status := true };
      (onLink l idle).offeredSlot = some .release ∧ (inMode .cfgFault .noReason (onLink l idle)).offeredSlot = some .beacon) ∧
    ((listed [e202]).front = some e202 ∧ e202.terms.map PairTerms.tag = some 77 ∧ (listed [e202]).beaconBody.frontTag = 77 ∧
      (listed [e204]).front.bind Entry.terms = none) := by decide

def askTo4 : AskFill := ⟨4, box201⟩
def land201 : TouchFill := ⟨pad201, 12430, 0, none⟩

theorem witness_PlainOwnFramesComplete :
    ∀ c ∈ [OnAir.beacon, .status, .touch land201, .ask askTo4],
      (sending c false idle).receiving = true ∧ (sending c false idle).link.onLine = some ⟨c, 5, [], 0, false, false⟩ := by
  decide

def shrink : ReleaseFill := ⟨box201, ⟨none, none⟩, 4, false⟩

/-- With a MOVE claim that carries lines, as a yield begun in FINISHING leaves it, and with no claim. -/
theorem witness_OwnReleaseCompletes :
    let p := sending (.release shrink) false (paired { meeting .finishing .source with connected := true });
    let yielding := claiming (some { moveClaim with lines := lineClaim.lines, who := .yield }) p;
    p.receiving = true ∧ p.link.onLine = some ⟨.release shrink, 5, [], 0, false, false⟩ ∧ p.resv.claim = none ∧
    yielding.receiving = true ∧ yielding.link.onLine = p.link.onLine ∧
    yielding.resv.claim.map (fun c => (c.kind, c.lines)) = some (.move, lineClaim.lines) := by decide

/-- R43, R52: a blocked MOVE claim of a yield holds on to no line that the own RELEASE has dropped. -/
theorem test_move_claim_loses_dropped_lines :
    let p := sending (.release shrink) false (onResv (fun r => { r with heldLines := lineClaim.lines }) idle);
    let u := after (.releaseCompleted 0) (claiming (some { moveClaim with lines := lineClaim.lines, who := .yield }) p);
    u.resv.heldLines = ⟨none, none⟩ ∧ u.resv.claim.map Claim.lines = some ⟨none, none⟩ := by decide

/-- A granted MOVE, a granted LINE, a withdrawn claim at a stop for an axis fault, a withdrawn claim in RUNNING; lines for a
SOURCE in LINKING whose partner has joined or not, and lines it does not hold. -/
theorem witness_OwnClaimCompletes :
    (let p := sending (.claim wide) false (claiming (some moveClaim) (touching e201 .claim none));
      p.receiving = true ∧ p.resv.claim = some moveClaim ∧ moveClaim.kind = .move) ∧
    (let p := sending (.claim ⟨box201, lineClaim.lines, 77⟩) false (claiming (some lineClaim) (paired (meeting .linking .source)));
      p.receiving = true ∧ p.resv.claim = some lineClaim ∧ lineClaim.kind = .line) ∧
    (let p := sending (.claim wide) true (inMode .stopped .axisFault idle);
      let q := { p with ctl := { p.ctl with axisFaulted := true } };
      q.receiving = true ∧ q.link.onLine.isSome = true ∧ q.ctl.mode = .stopped ∧ q.ctl.axisFaulted = true) ∧
    (let p := sending (.claim wide) true idle;
      p.receiving = true ∧ p.resv.claim = none ∧ p.ctl.mode ≠ .stopped) ∧
    (∀ heard ∈ [true, false],
      let r := { meeting .linking .source with joinedHeard := heard };
      let p := onResv (fun x => { x with heldLines := lineClaim.lines }) (paired r);
      p.pair.rdv = some r ∧ r.state = .linking ∧ r.role = .source ∧ p.motion.zState = .landed ∧
      p.resv.heldLines = lineClaim.lines) ∧
    (paired (meeting .linking .source)).resv.heldLines ≠ lineClaim.lines ∧ idle.pair.rdv = none := by decide

/-- A DONE that is the ending; a SOURCE that is done and holds lines, and one that holds none. -/
theorem witness_OwnPairFrameCompletes :
    (let x : PairFill := ⟨.done, none, 77, 4⟩;
      let p := sending (.pair x) false (paired { meeting .finishing .source with ending := some .done });
      p.receiving = true ∧ p.link.onLine = some ⟨.pair x, 5, [], 0, false, false⟩) ∧
    (let r := { meeting .finishing .source with ending := some .done, endingDone := true };
      let p := onResv (fun x => { x with heldLines := lineClaim.lines }) (paired r);
      p.pair.rdv = some r ∧ r.connected = false ∧ p.comingLines ≠ ⟨none, none⟩ ∧ (paired r).comingLines = ⟨none, none⟩) := by
  decide

/-- A RESULT of four records leaves; the oldest record is exactly 20 ms old; three records and four; two finished entries
with room for one of them, and with none. -/
theorem witness_ResultsLeaveTheQueue :
    (let p := sending (.result 4) false full;
      p.receiving = true ∧ p.link.onLine = some ⟨.result 4, 5, [], 0, false, false⟩) ∧
    (full.results.queue.head?.map Queued.joined = some 0 ∧
      { full with now := 0 }.results.queue ≠ [] ∧ 0 + ms 20 ≤ ({ full with now := 0 }.elapse (ms 20)).now) ∧
    (let queued := fun n => { full with now := 0, results := { full.results with queue := full.results.queue.take n } };
      (queued 4).link.result = false ∧ (queued 4).results.queue.length = 4 ∧ (queued 3).results.queue.length < 4 ∧
      (queued 3).results.queue.head?.map Queued.joined = some 0 ∧ ¬ 0 + ms 20 ≤ (queued 3).now) ∧
    (let held : ResultRecord := ⟨201, .capr, .noContact, none, MeasFlags.none, none, none⟩;
      let done := { e201 with st := .finished, held := some held };
      let l := [done, { done with id := 204 }];
      let holding := l.filter (fun e => decide (e.st = .finished ∧ e.held.isSome = true));
      (l.map Entry.id).Nodup ∧ holding.take (64 - 63) = [done] ∧ holding.take (64 - 64) = []) := by decide

theorem witness_OwnFrameFailuresAreCounted :
    ∀ n ∈ [0, 1, 2], let p := onLink (fun l => { l with fails := n }) (sending .beacon false idle);
      p.receiving = true ∧ p.link.onLine = some ⟨.beacon, 5, [], 0, false, false⟩ := by decide

theorem witness_DuplicateNumberStopsTheStation :
    ∀ m ∈ [Mode.starting, .cfgFault, .stopped, .idle],
      hears 0 (inMode m .halt idle) = true ∧ (sending .beacon false (inMode m .halt idle)).receiving = true ∧
      (sending .beacon false (inMode m .halt idle)).link.onLine.isSome = true := by decide

theorem witness_CutOffStopsTheStation :
    ∀ m ∈ [Mode.starting, .cfgFault, .stopped, .idle],
      (inMode m .halt idle).receiving = true ∧ (inMode m .halt idle).link.cutOff = false := by decide

/-- LINK_DOWN entered 1,000 µs before and the line recessive since, or for less; and a beacon due at this instant. -/
theorem witness_LinkDownBadFrameAndBeaconTimer :
    (idle.hearing = true ∧ (idle.elapse 0).hears earliestFailure = true) ∧
    (let p := onLink (fun l => { l with linkDown := some (ms 599), beaconDue := some (ms 600) }) idle;
      p.receiving = true ∧ p.link.linkDown = some (ms 599) ∧ us 1000 ≤ us 1000 ∧ ms 599 + us 1000 ≤ (p.elapse 0).now ∧
      us 999 < us 1000 ∧ (p.elapse 0).now < ms 599 + us 1001 ∧
      p.link.beaconDue = some (ms 600) ∧ ms 600 ≤ (p.elapse 0).now) := by decide

/-- A frame of station 4 in order (15 to 0) and one out of order, a SILENT record, no record, and frames not heard: too
soon after a reset, with the number 0, with an own frame on the line, and in a reset. -/
theorem witness_HeardFrameTracksItsSender :
    hears 30 known = true ∧ hdr4.sender ≠ known.own ∧ hdr4.sender ≠ 0 ∧ beaconOk beacon = true ∧
    known.record 4 = some peer4 ∧ peer4.presence ≠ .silent ∧ hdr4.seq = peer4.lastSeq + 1 ∧ (1 : Seq) ≠ peer4.lastSeq + 1 ∧
    ({ peer4 with presence := .silent }).presence = .silent ∧ idle.record 4 = none ∧
    (∀ len ∈ [0, 1, 23, 30, 45],
      (∀ p ∈ [{ known with ctl := { known.ctl with resetEnded := ms 600 - frameTime len } },
          { known with ctl := { known.ctl with number := 0 } }, sending .beacon false known,
          { known with ctl := { known.ctl with resetHold := some ⟨true, false, true⟩ } }],
        hears len p = false) ∧
      hears len { known with ctl := { known.ctl with resetEnded := ms 600 - frameTime len - us 3 } } = true) := by decide

/-- A beacon with no lines takes ML1 and ML2 out of station 4's record and leaves ML3; every other frame is well formed too. -/
theorem witness_HeardFieldsAreTakenAndLinesRest :
    hears 30 known = true ∧ hdr4.sender ≠ known.own ∧ hdr4.sender ≠ 0 ∧ beacon.wf = true ∧
    ClaimBody.wf ⟨.top, box201, ⟨none, none⟩, 0⟩ = true ∧ ReleaseBody.wf ⟨.top, true, box201, ⟨none, none⟩, 11⟩ = true ∧
    box201.wf = true ∧ holdsLine peer4.lines .ml1 = true ∧ holdsLine beacon.lines .ml1 = false ∧
    holdsLine peer4.lines .ml3 = false ∧ .ml3 ∉ effectiveLines peer4 := by decide

/-- A sent ask to station 4, which reports STOPPED or goes on; a malformed frame with sender 0. -/
theorem witness_HeardFramesReachTheirConsumer :
    (let p := onResv (fun r => { r with ask := some ⟨4, box201, some (ms 599)⟩ }) known;
      hears 30 p = true ∧ hdr4.sender ≠ p.own ∧ hdr4.sender ≠ 0 ∧ p.resv.ask = some ⟨4, box201, some (ms 599)⟩ ∧
      ({ beacon with mode := .stopped }).wf = true ∧ beacon.wf = true ∧ beacon.mode ≠ .stopped ∧ beacon.mode ≠ .cfgFault ∧
      ClaimBody.wf ⟨.top, box201, ⟨none, none⟩, 0⟩ = true) ∧
    (0 : Station) ≠ known.own := by decide

/-- An ask to station 4, answered at its haven with its box still in the way or not, or by name elsewhere. -/
theorem witness_ReleaseHeardAnswersTheAsk :
    let p := onResv (fun r => { r with ask := some ⟨4, wide.box, some (ms 599)⟩, claim := some moveClaim }) known;
    let near : ReleaseBody := ⟨.top, true, ⟨425000, 475000, 180000, 220000⟩, ⟨none, none⟩, 0⟩;
    let away : ReleaseBody := ⟨.top, true, ⟨425001, 475000, 180000, 220000⟩, ⟨none, none⟩, 0⟩;
    let heard := fun b => { p with view := p.view.track hdr4 false (releaseFields b) p.now };
    (hears 13 p = true ∧ hdr4.sender ≠ p.own ∧ hdr4.sender ≠ 0 ∧ p.resv.ask.map Ask.target = some hdr4.sender) ∧
    (near.wf = true ∧ near.atHaven = true ∧ ((heard near).record 4).map (overlapsRecord .top moveClaim.box) = some true) ∧
    (away.wf = true ∧ away.atHaven = true ∧ ((heard away).record 4).map (overlapsRecord .top moveClaim.box) = some false) ∧
    (({ away with atHaven := false, answerTo := 11 }).wf = true ∧ (11 : Nat) = p.own.val) ∧
    (idle.resv.ask.map Ask.target ≠ some hdr4.sender) := by decide

/-- An ASK of station 4 and one of station 12, uncrossed and crossed by an own ask; a yield due in FINISHING with Z
raised or lifting, one that is ready with two askers, and one at the haven. -/
theorem witness_AskHeardJoinsTheSet :
    (hears 11 idle = true ∧ hdr4.sender ≠ idle.own ∧ hdr4.sender ≠ 0 ∧ box201.wf = true ∧ idle.own = 11 ∧
      working idle.ctl.mode = true ∧ idle.resv.ask.map Ask.target ≠ some 4) ∧
    (∀ t ∈ [(4 : Station), 12],
      let p := onResv (fun r => { r with ask := some ⟨t, box201, none⟩ }) idle;
      hears 11 p = true ∧ t ≠ p.own ∧ p.resv.ask.map Ask.target = some t) ∧
    ((4 : Station).val < idle.own.val ∧ idle.own.val < (12 : Station).val) ∧
    (let asked := onResv (fun r => { r with asks := [(4, box201), (12, wide.box)], yieldDue := true, yieldAtClose := true });
      let closing := fun z => onMotion (fun m => { m with zState := z }) (paired (meeting .finishing .sense));
      (closing .raised).pair.rdv = some (meeting .finishing .sense) ∧ (closing .lifting).motion.zState ≠ .raised ∧
      (asked idle).resv.yieldDue = true ∧ (asked idle).motion.axis = .standing ∧ (asked idle).motion.zState = .raised ∧
      (asked idle).resv.claim = none ∧ (asked idle).motion.permitted = none ∧ (asked idle).motion.move = none ∧
      (asked idle).work.touch = none ∧ (asked idle).pair.rdv = none ∧ idle.resv.yieldDue = false ∧
      idle.here ≠ idle.geo.haven ∧ tableSorted (asked idle).resv.asks = true ∧ idle.resv.asks = [] ∧
      (touching e201 .claim none).work.touch.isSome = true ∧ (claiming (some moveClaim) idle).resv.claim.isSome = true) ∧
    (let p := { idle with ctl := { idle.ctl with config := some { cfg with haven := pad201 } } };
      p.motion.axis = .standing ∧ p.here = p.geo.haven) := by decide

/-- A TOUCH of the partner with our role for the open tag, and one with the other role. -/
theorem witness_TouchHeardIsNotedAndSampled :
    let r := meeting .joinedWait .source;
    let p := paired r;
    hears 10 p = true ∧ hdr4.sender ≠ p.own ∧ hdr4.sender ≠ 0 ∧ p.pair.rdv = some r ∧ r.partner = hdr4.sender ∧
    r.tag = 77 ∧ r.roleChecked = false ∧ r.state = .joinedWait ∧ some Role.sense ≠ some r.role := by decide

/-- Each state of the open rendezvous that a clause names; a QUEUED entry of tag 77; a frame aimed elsewhere; a
landed pairing that measures or is sensed. -/
theorem witness_PairFramesReachTheRendezvous :
    (∀ st ∈ [RdvState.joinedWait, .heading, .landedWait, .linking, .measuring, .holding, .finishing],
      ∀ role ∈ [Role.source, .sense],
        let p := paired (meeting st role);
        hears 4 p = true ∧ hdr4.sender ≠ p.own ∧ (11 : Station) = p.own ∧ p.pair.rdv = some (meeting st role) ∧
        (meeting st role).partner = hdr4.sender ∧ (meeting st role).tag = 77) ∧
    ((listed [e202]).pair.rdv = none ∧ (listed [e202]).queuedEntry 4 77 = some e202 ∧ (listed [e201]).queuedEntry 4 77 = none) ∧
    (12 : Station) ≠ idle.own ∧
    (let p := paired (meeting .holding .sense);
      p.activeEntry.isSome = true ∧ p.pair.rdv.isSome = true ∧ p.motion.zState = .landed ∧ p.meas.state = .idle ∧
      p.work.touch.map TouchRecord.stage = some .measure ∧ idle.activeEntry = none ∧
      (onMeas (fun m => m.goDischarging .reset (ms 601)) p).meas.state ≠ .idle) := by decide

/-- Station 4 unheard for 8,000 µs, a rest, a shadow and the 50 µs timer each reached at this instant. -/
theorem witness_SilenceRestShadowAndRecheckTimers :
    let p := onView (fun v => { v with rests := { v.rests with ml4 := some (ms 600) } })
      (onResv (fun r => { r with claim := some moveClaim, blockedSince := some 0, recheckDue := some (ms 600) }) known)
    (p.receiving = true ∧ p.record 4 = some peer4 ∧ peer4.presence ≠ .silent ∧ peer4.lastHeard + us 8000 ≤ (p.elapse 0).now) ∧
    (restOf p.view.rests .ml4 = some (ms 600) ∧ ms 600 ≤ (p.elapse 0).now) ∧
    (⟨4, box201, ms 600⟩ ∈ p.resv.shadows) ∧
    (p.resv.claim.isSome = true ∧ p.resv.blockedSince.isSome = true ∧ p.link.claim = none ∧ p.resv.recheckDue = some (ms 600)) := by
  decide

/-- Records on the own side, the other side and no side yet, in every presence, each line held or not. -/
theorem witness_ClaimPassesByFourTests :
    peer4.side = some .top ∧ (Side.bottom ≠ .top) ∧ ({ peer4 with side := none }).side = none ∧
    effectiveBox .top peer4 = peer4.held ∧ effectiveBox .bottom peer4 = none ∧
    effectiveBox .top { peer4 with mode := some .cfgFault } = some ⟨0, 1048575, 0, 1048575⟩ ∧
    effectiveBox .top { peer4 with held := none, reach := some wide.box } = some wide.box ∧
    effectiveBox .top { peer4 with presence := .unsure } = some ⟨0, 1048575, 0, 1048575⟩ ∧
    effectiveBox .top { peer4 with presence := .silent, frozen := some ⟨some box201, [.ml4]⟩ } = some box201 ∧
    effectiveLines peer4 = [.ml1, .ml2] ∧ effectiveLines { peer4 with presence := .unsure } = allLines ∧
    effectiveLines { peer4 with presence := .silent, frozen := some ⟨some box201, [.ml4]⟩ } = [.ml4] := by decide

/-- A MOVE claim that passes and one that fails, a LINE claim with two free lines, and one with none free. -/
theorem witness_ExaminationFillsOrBlocks :
    (claiming (some moveClaim) idle).claimPasses wide.box wide.lines = true ∧
    (claiming (some moveClaim) known).claimPasses wide.box wide.lines = false ∧
    (claiming (some lineClaim) idle).freeLines = [.ml1, .ml2, .ml3, .ml4] ∧
    ({ idle with view := { idle.view with peers := [(4, { peer4 with presence := .unsure })] } }).freeLines = [] ∧
    idle.resv.claim = none := by decide

/-- Blocked for exactly 5,000 µs by station 4; blocked for 500 ms, for a touch that may and may not be deferred, a PARK and
a yield. -/
theorem witness_BlockedClaimAsksThenIsGivenUp :
    (let p := onResv (fun r => { r with claim := some moveClaim, blockedSince := some (ms 595), ask := none }) known;
      p.claimPasses moveClaim.box moveClaim.lines = false ∧ p.now < (ms 596) + us 5000 ∧
      (onResv (fun r => { r with ask := some ⟨9, wide.box, none⟩ }) p).record 9 = none ∧
      p.resv.ask = none ∧ p.resv.blockedSince = some (ms 595) ∧ ms 595 + us 5000 ≤ p.now ∧
      (p.record 4).map PeerRecord.presence = some .present ∧ overlapsRecord .top moveClaim.box peer4 = true ∧
      idle.view.peers = []) ∧
    (let p := onResv (fun r => { r with claim := some moveClaim, blockedSince := some (ms 100) }) (touching e201 .claim none);
      p.resv.claim = some moveClaim ∧ p.resv.blockedSince = some (ms 100) ∧ ms 100 + ms 500 ≤ (p.elapse 0).now ∧
      p.activeEntry = some { e201 with st := .active } ∧ p.deferAllowed { e201 with st := .active } = true ∧
      p.deferAllowed { e201 with st := .active, deferCount := 3 } = false) ∧
    (∀ who ∈ [Requester.park, .yield, .pairUnit, .touchList],
      idle.activeEntry = none ∧
      (claiming (some { moveClaim with who }) idle).resv.claim = some { moveClaim with who }) := by decide

/-- Each of the three rows that reset the part. -/
theorem witness_ResetClearsEveryBlock :
    hears 1 idle = true ∧ idle.ctl.mode ≠ .starting ∧ idle.own = 11 ∧
    State.reset.part.ctl.resetHold = some ⟨true, false, true⟩ ∧ idle.ctl.resetHold = none := by decide

theorem witness_ResetEndsWithItsLastCause :
    ∀ h ∈ [ResetHold.mk true false true, ⟨true, true, true⟩, ⟨false, true, false⟩],
      ({ idle with ctl := { idle.ctl with resetHold := some h } }).ctl.resetHold = some h := by decide

/-- STARTING with the image pending, 5,000 µs after the reset, and with the image judged. -/
theorem witness_PreparationEndsInJoinOrCfgFault :
    let p := inMode .starting .noReason (onMotion (fun m => { m with axis := .stopping }) idle);
    let q := { p with ctl := { p.ctl with judgement := .pending, config := none, resetEnded := ms 595 } };
    (q.receiving = true ∧ q.ctl.mode = .starting ∧ q.ctl.judgement = .pending ∧ (List.replicate 32 (byteOf 0)).length = 32 ∧
      (q.elapse 0).now ≤ q.ctl.resetEnded + us 5000 ∧ q.ctl.resetEnded + us 5000 ≤ (q.elapse 0).now ∧
      q.motion.axis = .stopping ∧ q.motion.ax.inPosition = true ∧ q.motion.ay.inPosition = true) ∧
    (p.ctl.judgement = .valid ∧ p.ctl.config = some cfg) ∧
    ({ p with ctl := { p.ctl with judgement := .invalid } }).receiving = true := by decide

/-- The image of the worked geometry, byte by byte of chapter 11's layout, with its check. -/
def image : List Byte :=
  let body := boxBytes cfg.reach ++ posBytes cfg.haven ++
    ([208, 7, 220, 5, 136, 19, 224, 46, 30, 50, 32, 83, 132, 178, 0].map byteOf)
  body ++ crcBytes body

/-- A valid image, one whose check is wrong, one too short; a position at the edge of the allowed ones and one past it. -/
theorem witness_ValidImageMeetsEveryCondition :
    image.length = 32 ∧ judgeImage image = some cfg ∧ judgeImage (image.take 31 ++ [byteOf 0]) = none ∧
    (image.take 31 ++ [byteOf 0]).length = 32 ∧ (image.take 31).length ≠ 32 ∧ allowed cfg ⟨125000, 430000⟩ = true ∧
    allowed cfg ⟨124999, 430000⟩ = false := by decide +kernel

/-- The join timer runs out at this instant: with each recorded fault, with a fault seen, beside a neighbour, and alone. -/
theorem witness_JoinWindowEndChoosesTheMode :
    let p := inMode .starting .noReason (onLink (fun l => { l with join := .running (ms 600) }) idle);
    (∀ cut dup seen, let q := onMotion (fun m => { m with faultSeen := seen }) { p with ctl := { p.ctl with cutRecorded := cut, dupRecorded := dup } };
      q.receiving = true ∧ q.ctl.mode = .starting ∧ q.link.join = .running (ms 600) ∧ ms 600 ≤ q.now + 0) ∧
    (p.ctl.cutRecorded = false ∧ p.ctl.dupRecorded = false ∧ p.motion.faultSeen = false ∧ p.view.peers = [] ∧ p.ctl.startPos = some pad201) ∧
    overlapsRecord .top (standingBox p.geo pad201) { peer4 with held := some box201 } = true := by decide

theorem witness_LoadRecordIsBadWhenItsFieldsAre :
    r203.wf = true ∧ entryOf 11 r203 ≠ none ∧ ({ r203 with touchId := 0 }).wf = true ∧
    entryOf 11 { r203 with touchId := 0 } = none := by decide

/-- A LOAD in RUNNING and in STARTING, aimed here and elsewhere, and a record for each judgement. -/
theorem witness_LoadJudgesItsRecordsInOrder :
    (hears 45 (listed []) = true ∧ (11 : Station) = (listed []).own ∧ (12 : Station) ≠ (listed []).own ∧
      hears 45 (inMode .starting .noReason idle) = true) ∧
    (entryOf 11 { r204 with kindCode := 0 } = none ∧ (entryOf 11 r203).map (fun e => allowed cfg e.pad) = some false ∧
      entryOf 11 r204 = some e204 ∧ allowed cfg e204.pad = true) ∧
    ((listed [e204]).work.list.any (fun o => decide (o.id = e204.id)) = true ∧
      (entryOf 11 ⟨205, 1, 1, false, false, 5, 77, pad201, 0, 9, 0, 0⟩).map (fun e => e.terms.map PairTerms.tag) = some (some 77) ∧
      e202.terms.map PairTerms.tag = some 77 ∧ (listed [e202]).work.list.length < 256) ∧
    256 ≤ (listed (List.replicate 256 e201)).work.list.length ∧
    (4 ≤ full.results.refusals.length ∧ full.results.overflow = 255 ∧ idle.results.refusals.length < 4 ∧
      idle.results.overflow < 255) := by decide +kernel

/-- The touch of entry 201 with room in the queue, and behind a full queue. -/
theorem witness_EndedTouchGivesItsResult :
    (let p := touching e201 .lift (some .pass);
      p.activeEntry = some { e201 with st := .active } ∧ p.work.touch.isSome = true ∧ p.results.queue.length < 64 ∧
      ∀ x ∈ p.work.list, x.st ≠ .finished) ∧
    (let p := { touching e201 .lift (some .pass) with results := full.results };
      p.activeEntry = some { e201 with st := .active } ∧ p.work.touch.isSome = true ∧ 64 ≤ p.results.queue.length) := by
  decide

theorem witness_PermittedMoveIsCommanded :
    let p := onMotion (fun m => { m with permitted := some ⟨⟨400000, 300000⟩, .touch⟩ }) idle;
    p.motion.permitted = some ⟨⟨400000, 300000⟩, .touch⟩ ∧ p.motion.axis = .standing ∧ p.motion.zState = .raised ∧
    p.link.linkDown = none ∧ p.motion.ax.fault = false ∧ p.motion.ay.fault = false := by decide

/-- A report that faults the X axis of a standing carriage, one that does not, in each kind of mode. -/
theorem witness_AxisReportsAreJudged :
    idle.motion.faultAfter .x ⟨300001, true, false⟩ = true ∧ idle.motion.faultAfter .x ⟨300000, true, false⟩ = false ∧
    idle.motion.ax.fault = false ∧ (∀ m ∈ [Mode.starting, .cfgFault, .idle, .stopped], (inMode m .halt idle).receiving = true) ∧
    StopReason.halt ∉ [StopReason.axisFault, .linkCutoff, .dupStation] ∧
    (onMotion (fun m => { m with ax := { m.ax with fault := true } }) idle).motion.irregular .x ⟨300000, true, true⟩ = true := by decide

/-- R129: in STARTING a FAULT report of a drive that was faulted before is seen; while STOPPED it is only taken. -/
theorem test_old_fault_is_seen_in_starting :
    let p := onMotion (fun m => { m with ax := { m.ax with fault := true } }) idle
    (after (.axisReport 0 .x ⟨300000, true, true⟩) (inMode .starting .noReason p)).motion.faultSeen = true ∧
    (after (.axisReport 0 .x ⟨300000, true, true⟩) (inMode .stopped .halt p)).ctl.reason = .halt := by decide

/-- MOVING with both axes arrived at `q`, for `purpose`. -/
def arrived (purpose : Purpose) (due : Bool) (p : Fc4) : Fc4 :=
  onResv (fun r => { r with yieldDue := due }) (onMotion (fun m =>
    { m with axis := .moving, move := some ⟨⟨200000, 100000⟩, pad201, purpose⟩ }) p)

/-- A move's end for each purpose, at the haven and elsewhere, with an outcome set; a request inside and outside the box held;
a RELEASE that is pending in its slot or behind the own CLAIM. -/
theorem witness_MoveEndGoesOn :
    (∀ purpose ∈ [Purpose.yield, .park, .touch], ∀ due ∈ [true, false],
      let p := arrived purpose due (touching e201 .move none);
      p.motion.axis = .moving ∧ p.motion.move = some ⟨⟨200000, 100000⟩, pad201, purpose⟩ ∧
      axisArrived p.motion.ax pad201.x = true ∧ axisArrived p.motion.ay pad201.y = true ∧ p.here ≠ p.geo.haven ∧
      p.pair.rdv = none ∧ p.activeEntry = some { e201 with st := .active }) ∧
    (let p := arrived .touch true { idle with ctl := { idle.ctl with config := some { cfg with haven := pad201 } } };
      p.motion.axis = .moving ∧ p.resv.yieldDue = true ∧ p.here = p.geo.haven) ∧
    (arrived .touch false (paired { meeting .heading .source with outcome := some .partnerLost })).pair.rdv.bind Rendezvous.outcome
      = some .partnerLost ∧ idle.pair.rdv.bind Rendezvous.outcome = none ∧
    (let p := onResv (fun r => { r with heldBox := some wide.box }) idle;
      p.comingBox = some wide.box ∧ inside (sweptBox cfg p.here ⟨400000, 300000⟩) wide.box = true ∧
      inside (sweptBox cfg idle.here ⟨400000, 300000⟩) box201 = false ∧ idle.comingBox = some box201 ∧ idle.resv.waiting = none) ∧
    (let p := onResv (fun r => { r with waiting := some .linesDropped }) (onLink (fun l => { l with release := some shrink }) idle);
      p.resv.waiting = some .linesDropped ∧ (p.releaseContents .linesDropped).isSome = true ∧
      p.releaseContents .moveEnd = none ∧ p.link.release = some shrink) := by decide

/-- STOPPED with the axes stopped, one by its fault; the box held or another, lines held or none, and the own CLAIM on the
line or not. -/
theorem witness_CarriageStandsAndDescentIsHanded :
    (let p := inMode .stopped .axisFault (onMotion (fun m =>
        { m with axis := .stopping, ay := { m.ay with inPosition := false, fault := true } }) idle);
      p.ctl.mode = .stopped ∧ p.motion.axis = .stopping ∧ p.motion.ax.inPosition = true ∧ p.motion.ay.fault = true) ∧
    (idle.resv.heldBox = some idle.standing ∧ idle.resv.heldLines = ⟨none, none⟩ ∧ idle.ctl.axisFaulted = false ∧
      lineClaim.lines ≠ ⟨none, none⟩ ∧ (onResv (fun r => { r with heldBox := some wide.box }) idle).resv.heldBox ≠ some idle.standing) ∧
    ((sending (.claim wide) false idle).link.onLine = some ⟨.claim wide, 5, [], 0, false, false⟩ ∧ idle.link.onLine = none ∧
      idle.resv.waiting = none ∧ (onResv (fun r => { r with waiting := some .moveEnd }) idle).resv.waiting = some .moveEnd) := by
  decide

/-- In SEARCH at `z` above a limit of 13,400, with a run count of `n`. -/
def searching (z n : Nat) : Fc4 :=
  onMotion (fun m => { m with zState := .search, z, filter := n, nextSample := ms 600
                              descent := some ⟨pad201, 12400, 11800, 13400⟩ }) (touching e201 .descent none)

theorem witness_DescentSearchesWithTheContactFilter :
    (∀ h ∈ [12400, 601, 600], let p := onMotion (fun m => { m with handed := some (pad201, h) }) (touching e201 .descent none);
      p.motion.handed = some (pad201, h) ∧ p.motion.axis = .standing ∧ p.here = pad201 ∧ p.motion.zState = .raised ∧
      p.link.touch = none ∧ p.link.linkDown = none ∧ p.motion.ax.fault = false ∧ p.motion.ay.fault = false ∧ p.geo.margin = 600) ∧
    (let p := onMotion (fun m => { m with zState := .fastDescent }) (searching 0 0);
      p.motion.zState = .fastDescent ∧ p.motion.descent.isSome = true) ∧
    ((searching 13399 2).motion.z < 13400 ∧ (searching 13399 2).motion.filter < 3 ∧ (searching 13399 2).motion.nextSample ≤ ms 600) ∧
    (timing.motion.zState = .landed ∧ timing.motion.lostReported = false ∧ timing.motion.filter < 3 ∧
      timing.motion.nextSample ≤ timing.now) := by decide

/-- A solo touch, with the unit idle and in its reset discharge; one whose rendezvous is HEADING, and one whose rendezvous has
ended. -/
theorem witness_TouchdownLandsTheProbe :
    (let p := searching 12430 3;
      p.activeEntry = some { e201 with st := .active } ∧ p.motion.zState = .search ∧ p.motion.filter = 3 ∧ p.pair.rdv = none ∧
      p.meas.state = .idle ∧ (onMeas (fun m => m.goDischarging .reset (ms 601)) p).meas.state ≠ .idle) ∧
    (∀ st ∈ [RdvState.heading, .finishing], let p := { searching 12430 3 with pair := ⟨some (meeting st .source), []⟩ };
      p.activeEntry.isSome = true ∧ p.motion.zState = .search ∧ p.motion.filter = 3 ∧ p.pair.rdv = some (meeting st .source)) := by
  decide

/-- R81, R161: contact lost in the final discharge aborts the measurement: its value is discarded. -/
theorem test_contact_lost_in_the_final_discharge :
    let p := onMotion (fun m => { m with filter := 3 })
      (onMeas (fun m => { m.goDischarging .final (ms 601) with computed := some ⟨1204300, 1, .pass⟩ }) timing);
    let u := after (.contactLost 0) p;
    u.meas.computed = none ∧ u.meas.state = .discharging ∧ u.work.touch.bind TouchRecord.outcome = some .contactLost := by
  decide

/-- R143: the measurement of a landed CAPR touch waits for the end of a late reset discharge. -/
theorem test_measurement_waits_for_the_reset_discharge :
    let p := onMeas (fun m => { m.goDischarging .reset (ms 601) with owner := none }) (searching 12430 3);
    let u := after (.touchdown 0) p;
    u.meas.state = .discharging ∧ u.motion.zState = .landed ∧
    (after (.resetDischargeEnd (ms 1)) u).meas.state = .timing := by decide

/-- A search at its limit and above it, landed samples lost, a level exceeded; a solo and a paired touch, with the record
idle, timing, between its discharges and in its final one. -/
theorem witness_FailedContactEndsTheTouch :
    ((searching 13400 2).motion.zState = .search ∧ (searching 13400 2).motion.descent.map Descent.limit = some 13400 ∧
      (searching 13400 2).motion.filter < 3 ∧ (searching 13399 2).motion.z ≠ 13400) ∧
    (let p := onMotion (fun m => { m with filter := 3 }) timing;
      p.motion.zState = .landed ∧ p.motion.filter = 3 ∧ p.motion.lostReported = false) ∧
    ((searching 0 0).motion.latch = false ∧ (searching 0 0).geo.overloadLevel < 801 ∧ timing.motion.latch = false) ∧
    ((searching 0 0).pair.rdv = none ∧ (searching 0 0).work.touch.map TouchRecord.outcome = some none) ∧
    (let p := { searching 0 0 with pair := ⟨some (meeting .heading .source), []⟩ };
      p.work.touch.isSome = true ∧ p.pair.rdv = some (meeting .heading .source) ∧ (meeting .heading .source).quiet = false) ∧
    (timing.work.touch.map (fun t => (t.stage, t.outcome)) = some (.measure, none) ∧ timing.pair.rdv = none ∧
      timing.meas.state = .timing ∧ (onMeas (fun m => { m with state := .idle }) timing).meas.state = .idle ∧
      ∀ d ∈ [DischargePurpose.between, .final], (onMeas (fun m => m.goDischarging d (ms 600)) timing).meas.discharge =
        some ⟨d, ms 600⟩) := by decide

def lifting (p : Fc4) : Fc4 := onMotion (fun m => { m with zState := .lifting }) p

/-- No touch; a solo touch in LIFT; a paired one; one in another stage; the reset discharge under way; the latch standing under
HOLD, PAUSING with no touch, a yield that is ready; a PARK elsewhere and at the haven. -/
theorem witness_LiftEndRaisesZ :
    (∀ p ∈ [lifting idle, lifting (touching e201 .lift (some .pass)), lifting (paired (meeting .finishing .sense)),
        lifting (touching e201 .claim none)],
      p.motion.zState = .lifting ∧ p.meas.purposeIs .reset = false ∧ p.ctl.resetHold = none) ∧
    (lifting idle).work.touch = none ∧
    ((lifting (touching e201 .lift (some .pass))).work.touch.map (fun t => (t.stage, t.outcome)) = some (.lift, some .pass) ∧
      (lifting (touching e201 .lift (some .pass))).pair.rdv = none) ∧
    (let p := lifting { touching e202 .lift none with pair := ⟨some (meeting .finishing .sense), []⟩ };
      p.pair.rdv.isSome = true ∧ p.work.touch.map TouchRecord.stage = some .lift) ∧
    (lifting (touching e201 .claim none)).work.touch.map TouchRecord.stage = some .claim ∧
    (let p := onMeas (fun m => m.goDischarging .reset (ms 601)) (lifting idle);
      p.meas.state = .discharging ∧ p.meas.discharge = some ⟨.reset, ms 601⟩) ∧
    (let p := onMotion (fun m => { m with latch := true }) (listed []);
      p.motion.latch = true ∧ p.geo.hold = true ∧ p.ctl.mode = .running ∧ idle.motion.latch = false) ∧
    ((inMode .pausing .noReason idle).work.touch = none ∧
      (onResv (fun r => { r with yieldDue := true }) idle).yieldReady = true ∧ idle.yieldReady = false) ∧
    (let p := onMotion (fun m => { m with park := true }) idle;
      p.motion.park = true ∧ p.motion.zState = .raised ∧ p.resv.claim = none ∧ p.motion.permitted = none ∧
      p.motion.axis = .standing ∧ p.here ≠ p.geo.haven ∧ idle.motion.park = false ∧
      { p with ctl := { p.ctl with config := some { cfg with haven := pad201 } } }.here = pad201) := by decide

/-- The timer's expiry in each landed state; an early ending in every other one, with the descent handed over or begun. -/
theorem witness_RendezvousTimeoutAbandonsAndLifts :
    (∀ st ∈ [RdvState.landedWait, .linking, .joinedWait, .holding],
      let p := claiming (some lineClaim) (paired (meeting st .source));
      p.pair.rdv = some (meeting st .source) ∧ (meeting st .source).timer = some (ms 600) ∧ ms 600 ≤ p.now + 0 ∧
      (meeting st .source).outcome = none ∧ p.work.touch.map TouchRecord.stage = some .measure ∧
      p.meas.state = .idle ∧ p.motion.zState = .landed) ∧
    (∀ stage ∈ [Stage.claim, .move, .descent], ∀ handed ∈ [some (pad201, 12400), none],
      let p := onMotion (fun m => { m with handed }) { touching e202 stage none with pair := ⟨some (meeting .heading .source), []⟩ };
      p.pair.rdv = some (meeting .heading .source) ∧ p.work.touch = some ⟨202, stage, none, none, none⟩ ∧
      p.motion.handed = handed) ∧
    (meeting .measuring .source).outcome = none ∧ (meeting .finishing .source).state = .finishing := by decide

/-- The partner landed with our tag or not; no note, one of another tag, of our role, of the other; its lines held or not, a
SENSE connected to one; a partner lost in CLAIM, with deferral allowed and not, and later. -/
theorem witness_PartnersMeetOnTheirRecords :
    (let p := paired (meeting .landedWait .source);
      let noted := fun n : TouchNote => ({ p with pair := ⟨p.pair.rdv, [(4, n)]⟩ }).note 4;
      p.pair.rdv = some (meeting .landedWait .source) ∧ p.record 4 = some peer4 ∧ peer4.frontTag = 77 ∧ peer4.landed = true ∧
      peer4.presence ≠ .silent ∧ p.note 4 = none ∧ ({ peer4 with landed := false }).landed = false ∧ idle.record 4 = none ∧
      noted ⟨77, some .source⟩ = some ⟨77, some .source⟩ ∧ noted ⟨78, some .sense⟩ = some ⟨78, some .sense⟩ ∧
      noted ⟨77, some .sense⟩ = some ⟨77, some .sense⟩) ∧
    (let p := paired (meeting .linking .sense);
      p.pair.rdv = some (meeting .linking .sense) ∧ p.motion.zState = .landed ∧ peer4.lines = ⟨some .ml1, some .ml2⟩ ∧
      p.work.touch.map TouchRecord.stage = some .measure) ∧
    (let r := { meeting .holding .sense with connected := true, retLine := some .ml2 };
      r.role = .sense ∧ r.connected = true ∧ peer4.lines.ret = r.retLine ∧ beacon.lines.ret ≠ r.retLine) ∧
    (let lost := { peer4 with mode := some .stopped };
      let p := { touching e202 .claim none with pair := ⟨some (meeting .heading .source), []⟩, view := ⟨[(4, lost)], idle.view.rests⟩ };
      p.record 4 = some lost ∧ p.activeEntry = some { e202 with st := .active } ∧
      p.deferAllowed { e202 with st := .active } = true ∧ p.deferAllowed { e202 with deferCount := 3 } = false ∧
      p.resv.claim = none) ∧
    (peer4.mode ≠ some .stopped ∧ peer4.mode ≠ some .cfgFault) := by decide

/-- A SENSE whose every condition of R100 holds, and one still connected. -/
theorem witness_RendezvousClosesWhenAllIsDone :
    let r := { meeting .finishing .sense with outcome := some .sensed };
    let p := { touching e202 .lift (some .sensed) with pair := ⟨some r, []⟩ };
    (p.pair.rdv = some r ∧ r.outcome = some .sensed ∧ p.closable r = true) ∧
    ({ p with pair := ⟨some { r with connected := true }, []⟩ }).closable { r with connected := true } = false := by decide

theorem witness_SamplesBlendAndPredict :
    tableSorted [(cellOf pad201, HeightCell.mk 3 12400)] = true ∧ tableSorted ([] : List (Nat × HeightCell)) = true ∧
    tableGet (cellOf pad201) [(cellOf pad201, HeightCell.mk 7 12400)] = some ⟨7, 12400⟩ ∧
    tableSorted [(cellKey 9 5, HeightCell.mk 2 12300)] = true ∧
    tableGet (cellOf pad201) [(cellKey 9 5, HeightCell.mk 2 12300)] = none ∧
    neighbourHeights [(cellKey 9 5, HeightCell.mk 2 12300)] pad201 = [12300] ∧ neighbourHeights [] pad201 = [] := by decide

/-- The CONT measurement of chapter 08 at state `st` with `taken` samples, its next sample due now. -/
def measuring (st : MeasState) (taken : Nat) : Fc4 :=
  onMeas (fun m => { m with state := st, owner := some .pairUnit, latched := some ⟨.cont, 0, 1000, none⟩, range := some 1
                            taken, zero := some 12, sampleDue := ms 600 }) (paired (meeting .measuring .source))

theorem witness_ConverterSamplesAreSummed :
    ∀ st ∈ [MeasState.zeroing, .integrating], ∀ n ∈ [2, 3], let p := measuring st n;
      p.meas.sampleDue ≤ p.now + 0 ∧ p.meas.k = some 4 ∧ p.meas.range = some 1 ∧
      p.meas.latched = some ⟨.cont, 0, 1000, none⟩ ∧ p.meas.state = st ∧ p.meas.taken = n := by decide

/-- No sample a yet; a and b that agree, that disagree with an attempt left, and that disagree at the fifth pair. -/
theorem witness_SettlingRangesTheReading :
    let p := measuring .settling 0;
    (p.meas.state = .settling ∧ p.meas.sampleDue ≤ p.now + 0 ∧ p.meas.range = some 1 ∧ p.meas.sampleA = none) ∧
    (∀ n ∈ [3, 4], let q := onMeas (fun m => { m with sampleA := some 23870, attempt := n }) p;
      q.meas.sampleA = some 23870 ∧ q.meas.attempt = n) ∧
    max 23870 23967 - min 23870 23967 ≤ max 23870 23967 / 256 + 4 ∧ ¬ max 23870 24000 - min 23870 24000 ≤ max 23870 24000 / 256 + 4 := by
  decide

/-- A timing with its count below 65,535, one at it, and a discharge between timings that ends now. -/
theorem witness_TimingsAreRangedAndSummed :
    (timing.meas.k = some 4 ∧ timing.meas.range = some 1 ∧ timing.meas.state = .timing ∧
      (timing.now - timing.meas.timingFrom) / 2 < 65535 ∧ 65535 ≤ (timing.now + us 6429 - timing.meas.timingFrom) / 2) ∧
    (let p := onMeas (fun m => m.goDischarging .between (ms 600)) timing;
      p.meas.state = .discharging ∧ p.meas.discharge = some ⟨.between, ms 600⟩ ∧ ms 600 ≤ p.now) := by decide

/-- The CAPR value of chapter 08 waits for the end of its final discharge, and a SOURCE's; an abort's, and the reset's
discharge, with nothing, a landed touch or a joined SOURCE waiting; a rendezvous ended in MEASURING or FINISHING. -/
theorem witness_DischargesEndTheMeasurement :
    (let p := onMeas (fun m => { m.goDischarging .final (ms 600) with computed := some ⟨1204300, 1, .pass⟩ }) timing;
      p.meas.state = .discharging ∧ ms 600 ≤ p.now + 0 ∧ p.meas.discharge = some ⟨.final, ms 600⟩ ∧
      p.meas.computed = some ⟨1204300, 1, .pass⟩ ∧ p.meas.owner = some .touchList ∧
      p.meas.latched.map Latched.kind = some .capr ∧ p.meas.breakAtEnd = false ∧ p.pair.rdv = none ∧
      p.work.touch.isSome = true ∧ p.meas.forceSw = none ∧ p.motion.zState = .landed ∧
      ({ p.meas with computed := none }).computed = none) ∧
    (let p := onMeas (fun m => { m.goDischarging .final (ms 600) with computed := some ⟨630, 0, .pass⟩ }) (measuring .integrating 4);
      p.meas.state = .discharging ∧ p.meas.owner = some .pairUnit ∧ p.meas.latched.map Latched.kind = some .cont ∧
      p.pair.rdv = some (meeting .measuring .source) ∧ p.work.touch.isSome = true ∧ p.motion.zState = .landed) ∧
    (∀ d ∈ [DischargePurpose.abort, .reset], let p := onMeas (fun m => m.goDischarging d (ms 600)) idle;
      p.meas.state = .discharging ∧ p.meas.discharge = some ⟨d, ms 600⟩ ∧ p.ctl.resetHold = none) ∧
    ((touching e201 .measure (some .contactLost)).work.touch.map (fun t => (t.stage, t.outcome)) = some (.measure, some .contactLost) ∧
      (onMotion (fun m => { m with zState := .landed, liftWanted := true }) idle).work.touch = none) ∧
    (idle.motion.liftWanted = false ∧ idle.pair.rdv = none ∧ idle.work.touch = none) ∧
    (let p := onMotion (fun m => { m with zState := .landed }) (touching e201 .measure none);
      p.activeEntry = some { e201 with st := .active } ∧ p.pair.rdv = none ∧ p.motion.zState = .landed ∧ p.meas.state = .idle ∧
      p.work.touch.map (fun t => (t.stage, t.outcome)) = some (.measure, none) ∧
      ({ meeting .joinedWait .source with joinedHeard := true }).joinedHeard = true) ∧
    (∀ st ∈ [RdvState.measuring, .finishing], ∀ quiet ∈ [true, false],
      let r := { meeting st .source with outcome := some .partnerLost, quiet };
      let p := paired r;
      p.pair.rdv = some r ∧ p.work.touch.map TouchRecord.stage = some .measure ∧ p.motion.zState = .landed ∧
      p.motion.liftWanted = false ∧ p.lineClaimPending = false) := by
  refine ⟨?_, ?_, ?_, ?_, ?_, ?_, ?_⟩ <;> decide

/-- n at and below z; t at and below the stray. -/
theorem witness_ValuesFollowTheArithmetic :
    (0 < 1) ∧ ((12 : Nat) ≠ 65535 ∧ (12 : Nat) ≤ 12) ∧ ((11 : Nat) ≠ 65535 ∧ (11 : Nat) < 12) ∧
    ((457 : Nat) ≠ 65535 ∧ 45700 ≤ 100 * 10 ^ 0 * 457) ∧ ((456 : Nat) ≠ 65535 ∧ 100 * 10 ^ 0 * 456 < 45700) := by decide

/-- Every mode with a command aimed here, at all and elsewhere; a front entry that is started, one whose partner is known,
and one whose partner is absent, with another entry to defer it behind and without. -/
theorem witness_CommandsAreTakenOrBusy :
    (∀ m ∈ [Mode.starting, .cfgFault, .idle, .running, .pausing, .paused, .stopped], hears 1 (inMode m .halt idle) = true) ∧
    (11 : Station) = idle.own ∧ (12 : Station) ≠ idle.own ∧ (12 : Station) ≠ 0 ∧ idle.motion.park = false ∧
    idle.resv.yieldDue = false ∧ idle.link.sending .status = false ∧
    ((listed [e201]).canStart = true ∧ (listed [e201]).front = some e201 ∧ e201.terms = none ∧ (listed []).canStart = false) ∧
    (let near := { listed [e202, e204] with view := ⟨[(4, peer4)], idle.view.rests⟩ };
      near.canStart = true ∧ near.front = some e202 ∧ e202.terms = some ⟨.source, 4, 77⟩ ∧ near.record 4 = some peer4 ∧
      peer4.frontTag = 77 ∧ near.deferAllowed e202 = true) ∧
    ((listed [e202, e204]).ListOk ∧ (listed [e202, e204]).record 4 = none ∧ (listed [e202, e204]).deferAllowed e202 = true ∧
      (listed [e202]).deferAllowed e202 = false ∧ ({ peer4 with frontTag := 78 }).frontTag ≠ 77) := by
  unfold Fc4.ListOk; decide

/-- Every mode; a part in a move, one searching, one landed; an ask not sent; the own CLAIM on the line or not, the standing box
held with no lines, another or lines; each state of the measurement. -/
theorem witness_HaltStopsEveryBlock :
    (∀ m ∈ [Mode.starting, .cfgFault, .idle, .running, .pausing, .paused, .stopped], hears 0 (inMode m .halt idle) = true) ∧
    (claiming (some moveClaim) idle).resv.claim.isSome = true ∧ (searching 0 0).work.touch.isSome = true ∧
    (arrived .touch false idle).motion.axis = .moving ∧ idle.motion.axis ≠ .moving ∧
    (searching 0 0).motion.zState = .search ∧ timing.motion.zState = .landed ∧
    (onResv (fun r => { r with ask := some ⟨4, box201, none⟩ }) idle).resv.ask = some ⟨4, box201, none⟩ ∧
    (paired (meeting .linking .source)).pair.rdv.isSome = true ∧ idle.motion.axis = .standing ∧
    (sending (.claim wide) false idle).link.sending .claim = true ∧ idle.link.sending .claim = false ∧
    idle.resv.heldBox = some idle.standing ∧ idle.resv.heldLines = ⟨none, none⟩ ∧
    (onResv (fun r => { r with heldLines := lineClaim.lines }) idle).resv.heldLines ≠ ⟨none, none⟩ ∧ idle.meas.state = .idle ∧
    (∀ st ∈ [MeasState.zeroing, .settling, .ranging, .integrating, .timing], (measuring st 0).meas.state = st) ∧
    (∀ d ∈ [DischargePurpose.between, .final, .abort, .reset],
      (onMeas (fun m => m.goDischarging d (ms 601)) idle).meas.discharge = some ⟨d, ms 601⟩ ∧
      (onMeas (fun m => m.goDischarging d (ms 601)) idle).meas.state = .discharging) := by decide

/-- STOPPED(LINK_CUTOFF); a settled STOPPED(AXIS_FAULT) whose position can be trusted; a settled STOPPED(HALT); IDLE. -/
theorem witness_ClearLeavesASettledStop :
    (∀ r ∈ [StopReason.linkCutoff, .axisFault, .halt], let p := inMode .stopped r idle;
      hears 1 p = true ∧ p.own = 11 ∧ p.ctl.mode = .stopped ∧ p.ctl.reason = r) ∧
    (idle.motion.ax.inPosition = true ∧ idle.motion.ay.inPosition = true ∧ idle.motion.axis = .standing ∧
      idle.motion.zState = .raised ∧ idle.meas.state = .idle ∧ idle.motion.ax.fault = false ∧ idle.motion.ay.fault = false ∧
      allowed idle.geo idle.here = true ∧ idle.resv.heldBox = some box201 ∧ inside idle.standing box201 = true) ∧
    (hears 1 idle = true ∧ idle.ctl.mode ≠ .stopped) := by decide

end Sys2Proof.Tests
end

section
/-! PROOF. The Board Height Table (chapter 07): what a sample leaves in each cell, and where a prediction comes from. -/

namespace Sys2Proof.Machine

/-! ### Means with halves up -/

/-- The `q` that R132 and R137 compute is the integer with `a / n - 1 / 2 < q ≤ a / n + 1 / 2`: it is nearest to `a / n`,
and the upper one of two equally near. -/
theorem halvesUp_bounds (a : Nat) {n : Nat} (hn : 0 < n) :
    2 * a < n * (2 * ((a + n / 2) / n) + 1) ∧ n * (2 * ((a + n / 2) / n)) ≤ 2 * a + n := by
  have below : n * ((a + n / 2) / n) ≤ a + n / 2 := Nat.mul_div_le _ _
  have above : a + n / 2 < n * ((a + n / 2) / n + 1) := Nat.lt_mul_div_succ _ hn
  generalize (a + n / 2) / n = q at *
  simp only [Nat.mul_add, Nat.mul_one, Nat.mul_left_comm n 2 q] at *
  omega

/-! ### Samples -/

@[simp] theorem blend_none (h : Nat) : blend none h = ⟨1, h⟩ := rfl

/-- The two rows of R132 for a filled cell are one: the divisor is always the count and 1, and only the count stops
at 7. -/
theorem blend_some {c : HeightCell} (hc : c.count ≤ 7) (h : Nat) :
    blend (some c) h =
      ⟨min 7 (c.count + 1), (c.count * c.height + h + (c.count + 1) / 2) / (c.count + 1)⟩ := by
  rcases hc.lt_or_eq with below | capped
  · simp [blend, below, Nat.mul_comm]
  · simp [blend, capped, Nat.mul_comm]

@[simp] theorem tableGet_takeSample_self (t : List (Nat × HeightCell)) (pad : Pos) (h : Nat) :
    tableGet (cellOf pad) (takeSample t pad h) = some (blend (tableGet (cellOf pad) t) h) :=
  tableGet_tablePut_self _ _ _

theorem tableGet_takeSample_of_ne {pad : Pos} {k : Nat} (hk : k ≠ cellOf pad) (t : List (Nat × HeightCell)) (h : Nat) :
    tableGet k (takeSample t pad h) = tableGet k t :=
  tableGet_tablePut_of_ne hk _ _

/-! ### Predictions -/

theorem isNeighbour_iff (i j k : Nat) :
    isNeighbour i j k = true ↔
      k % 32 ≤ i + 1 ∧ i ≤ k % 32 + 1 ∧ k / 32 ≤ j + 1 ∧ j ≤ k / 32 + 1 ∧ k ≠ cellKey i j := by
  simp [isNeighbour, adjacent, and_assoc]

theorem predict_of_filled {t : List (Nat × HeightCell)} {pad : Pos} {c : HeightCell}
    (hc : tableGet (cellOf pad) t = some c) (nominal : Nat) : predict t nominal pad = c.height := by
  simp [predict, hc]

theorem predict_of_neighbours {t : List (Nat × HeightCell)} {pad : Pos} (hc : tableGet (cellOf pad) t = none)
    (hs : neighbourHeights t pad ≠ []) (nominal : Nat) :
    predict t nominal pad =
      ((neighbourHeights t pad).sum + (neighbourHeights t pad).length / 2) / (neighbourHeights t pad).length := by
  obtain ⟨a, as, cons⟩ := List.exists_cons_of_ne_nil hs
  simp [predict, hc, cons]

theorem predict_of_no_neighbours {t : List (Nat × HeightCell)} {pad : Pos} (hc : tableGet (cellOf pad) t = none)
    (hs : neighbourHeights t pad = []) (nominal : Nat) : predict t nominal pad = nominal := by
  simp [predict, hc, hs]

/-- Settles O52: the cell written is read back, and the prediction's three ways are taken one by one. -/
theorem samplesBlendAndPredict : Obligations.SamplesBlendAndPredict := by
  intro t pad h nominal _ u
  refine ⟨fun k hk => tableGet_takeSample_of_ne hk t h, fun empty => ?_, fun c filled _ hcount => ?_,
    fun c filled => predict_of_filled filled nominal, fun empty => ?_⟩
  · simp [u, empty]
  · have written := tableGet_takeSample_self t pad h
    rw [filled, blend_some hcount] at written
    exact ⟨_, written, rfl, halvesUp_bounds _ (Nat.succ_pos _)⟩
  · intro beside hs
    have same : neighbourHeights t pad = hs :=
      congrArg (List.map _) (List.filter_congr fun c _ =>
        Bool.eq_iff_iff.2 ((isNeighbour_iff _ _ c.1).trans decide_eq_true_iff.symm))
    rw [← same]
    exact ⟨fun some_filled => predict_of_neighbours empty some_filled nominal,
      fun none_filled => predict_of_no_neighbours empty none_filled nominal⟩

end Sys2Proof.Machine
end

section
/-! PROOF. The values of the Measurement Unit (chapter 08): average, resistance and capacitance, and the result they
leave in the record. -/

namespace Sys2Proof.Machine

/-! ### The average -/

theorem average_bounds (sum : Nat) {k : Nat} (hk : 0 < k) :
    2 * sum < 2 * k * average sum k + k ∧ 2 * k * average sum k ≤ 2 * sum + k := by
  have nearest : 2 * sum < k * (2 * average sum k + 1) ∧ k * (2 * average sum k) ≤ 2 * sum + k :=
    halvesUp_bounds sum hk
  rwa [Nat.mul_succ, Nat.mul_left_comm k, ← Nat.mul_assoc 2 k] at nearest

/-! ### Resistance: one equation per case of R150 -/

@[simp] theorem resistance_saturated (z r : Nat) : resistance 65535 z r = ⟨saturationMarker, false, true⟩ := rfl

theorem resistance_of_le {n z : Nat} (hn : n ≠ 65535) (hz : z ≤ n) (r : Nat) :
    resistance n z r = ⟨((n - z) * 10 ^ r + 1) / 3, false, false⟩ := by
  simp only [resistance, if_neg hn, if_pos hz]

theorem resistance_of_lt {n z : Nat} (hn : n ≠ 65535) (hz : n < z) (r : Nat) :
    resistance n z r = ⟨0, true, false⟩ := by
  simp only [resistance, if_neg hn, if_neg hz.not_ge, Nat.zero_mul, Nat.reduceAdd, Nat.reduceDiv]

/-- The 1 that R150 adds before it divides by 3 is the half, `3 / 2`, of a mean with halves up. -/
theorem resistance_value_bounds {n z : Nat} (hn : n ≠ 65535) (hz : z ≤ n) (r : Nat) :
    2 * (n - z) * 10 ^ r < 6 * (resistance n z r).value + 3 ∧
      6 * (resistance n z r).value ≤ 2 * (n - z) * 10 ^ r + 3 := by
  have nearest : 2 * ((n - z) * 10 ^ r) < 3 * (2 * (resistance n z r).value + 1) ∧
      3 * (2 * (resistance n z r).value) ≤ 2 * ((n - z) * 10 ^ r) + 3 := by
    rw [resistance_of_le hn hz]
    exact halvesUp_bounds _ (by decide)
  rw [Nat.mul_assoc 2]
  omega

/-! ### Capacitance: one equation per case of R155 -/

@[simp] theorem capacitance_saturated (c stray : Nat) : capacitance 65535 c stray = ⟨saturationMarker, false, true⟩ := rfl

theorem capacitance_of_le {t c stray : Nat} (ht : t ≠ 65535) (hs : stray ≤ 100 * 10 ^ c * t) :
    capacitance t c stray = ⟨100 * 10 ^ c * t - stray, false, false⟩ := by
  simp only [capacitance, if_neg ht, if_pos hs]

theorem capacitance_of_lt {t c stray : Nat} (ht : t ≠ 65535) (hs : 100 * 10 ^ c * t < stray) :
    capacitance t c stray = ⟨0, true, false⟩ := by
  simp only [capacitance, if_neg ht, if_neg hs.not_ge]

/-! ### The result in the record -/

theorem Meas.conclude_computed {m : Meas} {r : Nat} {l : Latched} (hr : m.range = some r) (hl : m.latched = some l)
    (a : Arithmetic) (now : Time) :
    (m.conclude a now).computed = some ⟨a.value, r, verdictOf l.low l.high a.value⟩ := by
  simp [Meas.conclude, Meas.rangeNow, hr, hl]

@[simp] theorem Meas.conclude_flags (m : Meas) (a : Arithmetic) (now : Time) :
    (m.conclude a now).flags = { m.flags with offsetClamp := a.offsetClamp, saturated := a.saturated } := rfl

@[simp] theorem Meas.conclude_discharge (m : Meas) (a : Arithmetic) (now : Time) :
    (m.conclude a now).discharge = some ⟨.final, now + longDischarge⟩ := rfl

/-- Settles O57: the average and the resistance are means with halves up, and the other clauses are the equations of
the arithmetic's cases and of `Meas.conclude`. -/
theorem valuesFollowTheArithmetic : Obligations.ValuesFollowTheArithmetic := by
  refine ⟨fun sum _ hk => average_bounds sum hk, fun n z r hn hz => ?_, fun _ _ r hn hz => resistance_of_lt hn hz r,
    resistance_saturated, fun _ _ _ ht hs => capacitance_of_le ht hs, fun _ _ _ ht hs => capacitance_of_lt ht hs,
    capacitance_saturated, fun m a l r now hr hl => ?_⟩
  · have unflagged := resistance_of_le hn hz r
    exact ⟨congrArg Arithmetic.offsetClamp unflagged, congrArg Arithmetic.saturated unflagged,
      resistance_value_bounds hn hz r⟩
  · obtain ⟨stimulusOff, _⟩ := Meas.conclude_off m a now
    exact ⟨Meas.conclude_computed hr hl a now, Meas.conclude_flags m a now, stimulusOff, Meas.conclude_discharge m a now⟩

end Sys2Proof.Machine
end

section
/-! PROOF. The invariants that every row keeps (O4 to O8): one case for each row, over the laws of its effect. -/

namespace Sys2Proof.Machine

/-! ### Rows and steps -/

/-- What a row leaves of the part: its effect, `dt` after the row before. -/
theorem rowEffect_part {dt : Time} {f : Fc4 → Fc4} {s t : State} (e : rowEffect dt f s = .next t) :
    t.part = f (s.part.elapse dt) := by
  cases e; rfl

/-- A step leaves the part as it was, or takes a row on it. -/
theorem step_part {s t : State} (h : step s = .next t) :
    t.part = s.part ∨ ∃ i rest, exec i { s with pending := rest } = .next t := by
  unfold step at h
  split at h
  · rw [Host.Outcome.next.injEq] at h; exact .inl (h ▸ rfl)
  · exact .inr ⟨_, _, h⟩

/-! ### The predicates of Safety.lean but for the held area -/

theorem rowEffect_keeps {dt : Time} {f : Fc4 → Fc4} {s t : State} (e : rowEffect dt f s = .next t)
    (hf : ∀ p, Keeps p (f p)) : Keeps s.part t.part :=
  rowEffect_part e ▸ (hf _).after (s.part.elapse_keeps dt)

theorem Fc4.hears_hearing {p : Fc4} {span : Time} (h : p.hears span = true) : p.hearing = true := by
  simp only [Fc4.hears, Bool.and_eq_true] at h; exact h.1

theorem heardRow_keeps {dt : Time} {len : Nat} {h : Header} {wf b : Bool} {f : PeerRecord → PeerRecord} {c : Fc4 → Fc4}
    {s t : State} (e : heardRow dt len h wf b f c s = .next t) (hc : ∀ p, Keeps p (c p)) : Keeps s.part t.part := by
  refine rowEffect_keeps e fun p => onlyIf_keeps fun hh => ?_
  have used := p.lineUsed_keeps
  have hearing : p.lineUsed.hearing = true := Fc4.hears_hearing hh
  split
  · exact (Fc4.heardFrom_keeps _ _ _ _ _ hearing hc).after used
  · exact (Fc4.heardFrom_keeps _ _ _ _ _ hearing Keeps.refl).after used

theorem sequencerRow_keeps {dt : Time} {len : Nat} {f : Fc4 → Fc4} {s t : State}
    (e : sequencerRow dt len f s = .next t) (hf : ∀ p, Keeps p (f p)) : Keeps s.part t.part :=
  rowEffect_keeps e fun p => onlyIf_keeps fun _ =>
    (Fc4.recheck_flow _).keeps.after ((hf _).after p.lineUsed_keeps)

theorem commandRow_keeps {dt : Time} {target : Station} {c : Command} {taken : Fc4 → Bool} {f : Fc4 → Fc4} {s t : State}
    (e : sequencerRow dt 1 (commandEffect c target taken f) s = .next t) (hf : ∀ p, taken p = true → Keeps p (f p)) :
    Keeps s.part t.part :=
  sequencerRow_keeps e fun p => commandEffect_keeps p (hf p)

/-- A cause that ends in a reset with another cause is struck out, and no more. -/
theorem Keeps.strikeOut {p : Fc4} {h h' : ResetHold} (hh : p.ctl.resetHold = some h) :
    Keeps p { p with ctl := { p.ctl with resetHold := some h' } } :=
  ⟨id, id, id, id, id, fun k => ⟨k.1, k.2.1, fun _ => k.2.2 (by simp [hh])⟩, id, id, id, id⟩

theorem resting_ne_stopped {m : Mode} (h : resting m = true) : m ≠ .stopped := by
  rintro rfl; simp [resting] at h

/-- Every row keeps each predicate of Safety.lean but that of the held area. -/
theorem exec_keeps {i : Instr} {s t : State} (e : exec i s = .next t) : Keeps s.part t.part := by
  cases i with
  | powerOn dt r =>
    unfold exec execPowerOn at e
    exact rowEffect_keeps e fun p => (p.resetNow_sound _ _ _).keeps p
  | powerOnSettled dt straps =>
    unfold exec execPowerOnSettled at e
    refine rowEffect_keeps e fun p => ?_
    split
    · rename_i hh; repeat' split
      · exact .strikeOut hh
      · exact p.endReset_keeps straps (by simp [hh])
      · exact .refl p
    · exact .refl p
  | resetLineAsserted dt r =>
    unfold exec execResetLineAsserted at e
    refine rowEffect_keeps e fun p => ?_
    split
    · exact (p.resetNow_sound _ _ _).keeps p
    · exact (p.resetNow_sound _ _ _).keeps p
  | resetLineReleased dt straps =>
    unfold exec execResetLineReleased at e
    refine rowEffect_keeps e fun p => ?_
    split
    · rename_i hh; repeat' split
      · exact .strikeOut hh
      · exact p.endReset_keeps straps (by simp [hh])
      · exact .refl p
    · exact .refl p
  | imageReadTimeout dt =>
    unfold exec execImageReadTimeout at e
    refine rowEffect_keeps e fun p => onlyIf_keeps fun h => p.judge_keeps _ ?_
    simp only [Fc4.imagePending, Bool.and_eq_true, decide_eq_true_eq] at h; exact h.1.1.2
  | imageJudged dt image =>
    unfold exec execImageJudged at e
    refine rowEffect_keeps e fun p => onlyIf_keeps fun h => p.judge_keeps _ ?_
    simp only [Fc4.imagePending, Bool.and_eq_true, decide_eq_true_eq] at h; exact h.1.1.1.2
  | stopWaitEnd dt =>
    unfold exec execStopWaitEnd at e
    refine rowEffect_keeps e fun p => onlyIf_keeps fun h => p.stopWaitOver_keeps ?_
    simp only [Bool.and_eq_true, decide_eq_true_eq] at h; exact h.1.1.2
  | joinWindowEnd dt =>
    unfold exec execJoinWindowEnd at e
    refine rowEffect_keeps e fun p => onlyIf_keeps fun h => p.joinEnd_keeps ?_
    simp only [Bool.and_eq_true, decide_eq_true_eq] at h; exact h.1.2
  | offer dt rivals =>
    unfold exec execOffer at e
    exact rowEffect_keeps e fun p => onlyIf_keeps fun _ => p.offer_keeps rivals
  | bitFault dt passed =>
    unfold exec execBitFault at e
    refine rowEffect_keeps e fun p => onlyIf_keeps fun _ => ?_
    have dropped : Keeps p ({ p with link := p.link.dropFrame } : Fc4).flushRelease :=
      (Fc4.flushRelease_flow _).keeps.after (.same rfl)
    refine (Fc4.recheck_flow _).keeps.after ((Fc4.closeCheck_flow _).keeps.after ?_)
    split
    · exact ((Fc4.duplicate_keeps _).after (Fc4.lineUsed_keeps _)).after dropped
    · exact ((Fc4.countFailure_keeps _).after (Fc4.trustNoPeer_keeps _)).after dropped
  | checkFailure dt =>
    unfold exec execCheckFailure at e
    exact rowEffect_keeps e fun p => onlyIf_keeps fun _ => (Fc4.recheck_flow _).keeps.after p.trustNoPeer_keeps
  | ownCopyFail dt =>
    unfold exec execOwnCopyFail at e
    exact rowEffect_keeps e fun p => onlyIf_keeps fun _ =>
      (Fc4.recheck_flow _).keeps.after ((Fc4.closeCheck_flow _).keeps.after ((Fc4.countFailure_keeps _).after
        ((Fc4.flushRelease_flow _).keeps.after ((Fc4.lineUsed_keeps _).after (p.completeFrame_keeps false)))))
  | claimGranted dt =>
    unfold exec execClaimGranted at e
    refine rowEffect_keeps e fun p => ?_
    repeat' split
    · exact p.claimCompletes_keeps _ _
    all_goals exact .refl p
  | releaseCompleted dt =>
    unfold exec execReleaseCompleted at e
    refine rowEffect_keeps e fun p => ?_
    repeat' split
    · exact p.releaseCompletes_keeps _
    all_goals exact .refl p
  | askSent dt =>
    unfold exec execAskSent at e
    refine rowEffect_keeps e fun p => ?_
    split
    · exact (Fc4.recheck_flow _).keeps.after ((Fc4.recordAskSent_keeps _ _).after p.complete_keeps)
    · exact .refl p
  | touchSent dt =>
    unfold exec execTouchSent at e
    refine rowEffect_keeps e fun p => ?_
    split
    · exact (Fc4.recheck_flow _).keeps.after p.complete_keeps
    · exact .refl p
  | pairSent dt =>
    unfold exec execPairSent at e
    refine rowEffect_keeps e fun p => ?_
    repeat' split
    · exact (Fc4.recheck_flow _).keeps.after ((Fc4.pairCompletes_flow _ _).keeps.after p.complete_keeps)
    all_goals exact .refl p
  | beaconSent dt =>
    unfold exec execBeaconSent at e
    refine rowEffect_keeps e fun p => ?_
    split
    · exact (Fc4.recheck_flow _).keeps.after p.complete_keeps
    · exact .refl p
  | statusSent dt =>
    unfold exec execStatusSent at e
    refine rowEffect_keeps e fun p => ?_
    split
    · have emptied : Keeps p.complete { p.complete with results := { p.results with refusals := [], overflow := 0 } } :=
        ⟨id, id, id, fun _ => by simp [Fc4.RefusalsOk], id, id, id, id, id, id⟩
      exact (Fc4.recheck_flow _).keeps.after (emptied.after p.complete_keeps)
    · exact .refl p
  | resultSent dt =>
    unfold exec execResultSent at e
    refine rowEffect_keeps e fun p => ?_
    repeat' split
    · exact (Fc4.recheck_flow _).keeps.after ((Fc4.resultsLeave_keeps _ _).after p.complete_keeps)
    all_goals exact .refl p
  | dupStationFrame dt =>
    unfold exec execDupStationFrame at e
    exact rowEffect_keeps e fun p => onlyIf_keeps fun _ =>
      (Fc4.recheck_flow _).keeps.after ((Fc4.duplicate_keeps _).after p.lineUsed_keeps)
  | transmitterCutOff dt =>
    unfold exec execTransmitterCutOff at e
    exact rowEffect_keeps e fun p => onlyIf_keeps fun _ =>
      (Fc4.closeCheck_flow _).keeps.after ((Fc4.cutOffMode_keeps _).after
        ((Fc4.flushRelease_flow _).keeps.after (.same rfl)))
  | linkDownEntry dt =>
    unfold exec execLinkDownEntry at e
    exact rowEffect_keeps e fun p => onlyIf_keeps fun _ => .same (by simp [Fc4.judged])
  | linkDownEnd line =>
    unfold exec execLinkDownEnd at e
    exact rowEffect_keeps e fun p => onlyIf_keeps fun _ =>
      (Fc4.recheck_flow _).keeps.after ((Fc4.trustNoPeer_keeps _).after (.same (by simp [Fc4.judged])))
  | beaconTimer dt =>
    unfold exec execBeaconTimer at e
    refine rowEffect_keeps e fun p => ?_
    split
    · exact p.fillBeacon_keeps _
    · exact .refl p
  | beaconReceived dt h b =>
    unfold exec execBeaconReceived at e
    exact heardRow_keeps e fun p => p.beaconHeard_keeps _ _
  | claimReceived dt h b =>
    unfold exec execClaimReceived at e
    exact heardRow_keeps e fun p => p.claimHeard_keeps _ _
  | releaseReceived dt h b =>
    unfold exec execReleaseReceived at e
    exact heardRow_keeps e fun p => p.releaseHeard_keeps _ _
  | askReceived dt h target b =>
    unfold exec execAskReceived at e
    exact heardRow_keeps e fun p => p.askHeard_keeps _ _ _
  | touchReceived dt h b =>
    unfold exec execTouchReceived at e
    exact heardRow_keeps e fun p => p.touchHeard_keeps _ _
  | joinedReceived dt h target tag =>
    unfold exec execJoinedReceived at e
    exact heardRow_keeps e fun p => p.joinedHeard_keeps _ _ _
  | doneReceived dt h target tag =>
    unfold exec execDoneReceived at e
    exact heardRow_keeps e fun p => p.doneHeard_keeps _ _ _
  | abandonReceived dt h target reason tag =>
    unfold exec execAbandonReceived at e
    exact heardRow_keeps e fun p => p.abandonHeard_keeps _ _ _
  | statusHeard dt h =>
    unfold exec execStatusHeard at e
    exact heardRow_keeps e Keeps.refl
  | resultHeard dt h =>
    unfold exec execResultHeard at e
    exact heardRow_keeps e Keeps.refl
  | unassignedFrame dt h =>
    unfold exec execUnassignedFrame at e
    exact heardRow_keeps e Keeps.refl
  | invalidSenderFrame dt h =>
    unfold exec execInvalidSenderFrame at e
    exact heardRow_keeps e Keeps.refl
  | malformedFrame dt h =>
    unfold exec execMalformedFrame at e
    exact heardRow_keeps e Keeps.refl
  | peerSilence dt peer =>
    unfold exec execPeerSilence at e
    refine rowEffect_keeps e fun p => ?_
    split
    · exact onlyIf_keeps fun _ => (Fc4.recheck_flow _).keeps.after
        ((Fc4.pairRecheck_flow _).keeps.after (p.peerSilent_keeps _ _ ‹_›))
    · exact .refl p
  | lineRestExpiry dt line =>
    unfold exec execLineRestExpiry at e
    exact rowEffect_keeps e fun p => onlyIf_keeps fun _ => .same rfl
  | claimRecheckTimer dt =>
    unfold exec execClaimRecheckTimer at e
    exact rowEffect_keeps e fun p => onlyIf_keeps fun _ => (Fc4.recheck_flow _).keeps.after (.same rfl)
  | claimGiveUp dt =>
    unfold exec execClaimGiveUp at e
    refine rowEffect_keeps e fun p => ?_
    split
    · exact (p.giveUp_flow _).keeps
    · exact .refl p
  | yieldShadowExpiry dt asker =>
    unfold exec execYieldShadowExpiry at e
    exact rowEffect_keeps e fun p => onlyIf_keeps fun _ => (Fc4.recheck_flow _).keeps.after
      ⟨id, id, id, id, id, id, fun k => ⟨k.1, k.2.1.sublist (List.filter_sublist.map _), k.2.2⟩, id, id, id⟩
  | loadReceived dt target records =>
    unfold exec execLoadReceived at e
    refine sequencerRow_keeps e fun p => ?_
    split
    · exact p.load_keeps records
    · exact .refl p
  | moveCommand dt =>
    unfold exec execMoveCommand at e
    refine rowEffect_keeps e fun p => ?_
    split
    · exact onlyIf_keeps fun h => p.commandMove_keeps _ h
    · exact .refl p
  | axisReport dt a r =>
    unfold exec execAxisReport at e
    refine rowEffect_keeps e fun p => ?_
    dsimp only
    split
    · exact (Fc4.axisFaulted_keeps _).after (p.takeReport_keeps a r)
    · exact p.takeReport_keeps a r
  | moveEnd dt =>
    unfold exec execMoveEnd at e
    refine rowEffect_keeps e fun p => ?_
    split
    · exact p.moveEnds_keeps _
    · exact .refl p
  | carriageStopped dt =>
    unfold exec execCarriageStopped at e
    exact rowEffect_keeps e fun p => onlyIf_keeps fun _ => p.carriageStands_keeps
  | descentBegin dt =>
    unfold exec execDescentBegin at e
    refine rowEffect_keeps e fun p => ?_
    split
    · exact onlyIf_keeps fun h => p.beginDescent_keeps _ _ h
    · exact .refl p
  | fastTargetReached dt =>
    unfold exec execFastTargetReached at e
    refine rowEffect_keeps e fun p => ?_
    split
    · rename_i hz _
      exact .ofDescent (by simp [hz]) fun k => k.2 (by simp [lowered, hz])
    · exact .refl p
  | touchdown dt =>
    unfold exec execTouchdown at e
    refine rowEffect_keeps e fun p => ?_
    split
    · refine onlyIf_keeps fun h => p.touchdown_keeps _ ?_
      simp only [Bool.and_eq_true, decide_eq_true_eq] at h; exact h.1
    · exact .refl p
  | noContact dt =>
    unfold exec execNoContact at e
    refine rowEffect_keeps e fun p => onlyIf_keeps fun h => (p.failSearch_flow _ ?_).keeps
    simp only [Bool.and_eq_true, decide_eq_true_eq] at h; simp [h.1.1]
  | contactLost dt =>
    unfold exec execContactLost at e
    exact rowEffect_keeps e fun p => onlyIf_keeps fun _ => (Fc4.failLanded_flow _ _).keeps.after (.same rfl)
  | overloadLatch dt current =>
    unfold exec execOverloadLatch at e
    refine rowEffect_keeps e fun p => onlyIf_keeps fun _ => ?_
    have latched : Keeps p { p with motion := { p.motion with latch := true } } := .same rfl
    dsimp only
    split
    · rename_i hz
      split
      · exact latched
      · exact (Fc4.failSearch_flow _ _ (by simp [hz])).keeps.after latched
    · exact (Fc4.failLanded_flow _ _).keeps.after latched
  | liftEnd dt =>
    unfold exec execLiftEnd at e
    refine rowEffect_keeps e fun p => onlyIf_keeps fun h => p.liftEnded_keeps ?_
    simp only [Fc4.lifting, Bool.and_eq_true, decide_eq_true_eq] at h; exact h.1.1
  | rendezvousTimeout dt =>
    unfold exec execRendezvousTimeout at e
    exact rowEffect_keeps e fun p => onlyIf_keeps fun _ => (p.endRendezvous_flow _ _).keeps
  | converterSample dt code =>
    unfold exec execConverterSample at e
    refine rowEffect_keeps e fun p => onlyIf_keeps fun h => ?_
    have hs : p.meas.state = .zeroing ∨ p.meas.state = .integrating := by
      simp only [Meas.sampleDueIn, Bool.or_eq_true, Bool.and_eq_true, decide_eq_true_eq] at h
      exact h.imp And.left And.left
    exact .ofMeasuring (by rcases hs with hs | hs <;> simp [Meas.active, hs]) (p.meas.converterSample_goes _ _ hs)
  | settleSampleA dt code =>
    unfold exec execSettleSampleA at e
    exact rowEffect_keeps e fun p => onlyIf_keeps fun _ => .same rfl
  | settleCheck dt code =>
    unfold exec execSettleCheck at e
    refine rowEffect_keeps e fun p => onlyIf_keeps fun h => ?_
    simp only [Meas.sampleDueIn, Bool.and_eq_true, decide_eq_true_eq] at h
    exact .ofMeasuring (by simp [Meas.active, h.1.1]) (.inl (p.meas.checkB_active _ _ h.1.1))
  | timingCrossing dt =>
    unfold exec execTimingCrossing at e
    refine rowEffect_keeps e fun p => onlyIf_keeps fun h => ?_
    simp only [Bool.and_eq_true, decide_eq_true_eq] at h
    exact .ofMeasuring (by simp [Meas.active, h.1]) (p.meas.endTiming_goes _ _ _)
  | timingTimeout dt =>
    unfold exec execTimingTimeout at e
    refine rowEffect_keeps e fun p => onlyIf_keeps fun h => ?_
    simp only [Bool.and_eq_true, decide_eq_true_eq] at h
    exact .ofMeasuring (by simp [Meas.active, h.1]) (p.meas.endTiming_goes _ _ _)
  | betweenDischargeEnd dt =>
    unfold exec execBetweenDischargeEnd at e
    refine rowEffect_keeps e fun p => onlyIf_keeps fun h => ?_
    simp only [Fc4.dischargedFor, Bool.and_eq_true] at h
    exact .ofMeasuring (by simp [Meas.active, h.1]) (.inl (Meas.goTiming_active _ _ _))
  | finalDischargeEnd dt =>
    unfold exec execFinalDischargeEnd at e
    exact rowEffect_keeps e fun p => onlyIf_keeps fun _ => p.finalDischargeOver_flow.keeps
  | abortDischargeEnd dt =>
    unfold exec execAbortDischargeEnd at e
    exact rowEffect_keeps e fun p => onlyIf_keeps fun _ => p.abortEnded_flow.keeps
  | resetDischargeEnd dt =>
    unfold exec execResetDischargeEnd at e
    exact rowEffect_keeps e fun p => onlyIf_keeps fun _ => p.resetDischarged_flow.keeps
  | resultAgeTrigger dt =>
    unfold exec execResultAgeTrigger at e
    refine rowEffect_keeps e fun p => ?_
    repeat' split
    · exact p.testPacking_flow.keeps
    all_goals exact .refl p
  | halt dt target =>
    unfold exec execHalt at e
    refine sequencerRow_keeps e fun p => ?_
    split
    · exact p.enterStopped_keeps _ (by simp)
    · exact .refl p
  | start dt target =>
    unfold exec execStart at e
    refine commandRow_keeps e fun p h => (Fc4.testStart_flow _).keeps.after (p.setMode_keeps _ ?_ (by simp))
    simp only [Fc4.takesStart, Bool.and_eq_true] at h; exact resting_ne_stopped h.1
  | pause dt target =>
    unfold exec execPause at e
    refine commandRow_keeps e fun p h => p.pauseNow_keeps ?_
    rw [decide_eq_true_eq] at h; simp [h]
  | clear dt target =>
    unfold exec execClear at e
    refine sequencerRow_keeps e fun p => ?_
    split
    · refine (Fc4.reportCommand_keeps _ _ _).after ?_
      split
      · exact p.clearStop_keeps
      · exact .refl p
    · exact .refl p
  | purge dt target =>
    unfold exec execPurge at e
    exact commandRow_keeps e fun p _ => (Fc4.refreshWaiting_flow _).keeps.after p.purge_keeps
  | park dt target =>
    unfold exec execPark at e
    exact commandRow_keeps e fun p _ => p.parkNow_flow.keeps
  | query dt target =>
    unfold exec execQuery at e
    exact commandRow_keeps e fun p _ => .refl p
  | reset dt target straps r =>
    unfold exec execReset at e
    refine rowEffect_keeps e fun p => onlyIf_keeps fun _ => ?_
    dsimp only
    repeat' split
    · exact (Fc4.recheck_flow _).keeps.after ((Fc4.reportCommand_keeps _ _ _).after p.lineUsed_keeps)
    · exact (Fc4.endReset_keeps _ straps rfl).after ((Fc4.resetNow_sound _ _ _ _).keeps p)
    · exact (Fc4.recheck_flow _).keeps.after p.lineUsed_keeps
  | unknownCommand dt target code =>
    unfold exec execUnknownCommand at e
    exact sequencerRow_keeps e Keeps.refl
  | contactInputSample dt asserted =>
    unfold exec execContactInputSample at e
    exact rowEffect_keeps e fun p => onlyIf_keeps fun _ => .same rfl

theorem step_keeps {s t : State} (h : step s = .next t) : Keeps s.part t.part := by
  rcases step_part h with same | ⟨i, rest, row⟩
  · exact same ▸ .refl _
  · have kept := exec_keeps row
    exact kept

/-- Settles O4: a part of what every row keeps. -/
theorem stopReasonStandsOnlyInStopped : Obligations.StopReasonStandsOnlyInStopped :=
  fun _ _ hs h => (step_keeps h).reason hs

/-- Settles O5: a part of what every row keeps. -/
theorem listsQueuesAndCountsStayInBounds : Obligations.ListsQueuesAndCountsStayInBounds := fun _ _ h =>
  have k := step_keeps h
  ⟨k.list, k.queue, k.refusals, k.fails⟩

/-- Settles O6: a part of what every row keeps. -/
theorem tablesKeepTheirForm : Obligations.TablesKeepTheirForm := fun _ _ h =>
  have k := step_keeps h
  ⟨k.peers, k.keys, k.heights⟩

end Sys2Proof.Machine
end

section
/-! PROOF. The invariants that every row keeps, second part: the held area and the held lines (O7), and the state after
a reset (O8). -/

namespace Sys2Proof.Machine

/-! ### Rows -/

theorem Flow.holds {s t : Fc4} (h : Flow s t) : Holds s t := h.held

theorem Fc4.elapse_holds (s : Fc4) (dt : Time) : Holds s (s.elapse dt) := .same rfl

theorem Fc4.InHand.elapse {s : Fc4} (hand : s.InHand) (dt : Time) : (s.elapse dt).InHand :=
  ⟨hand.release, hand.claim, hand.permitted⟩

theorem rowEffect_holds {dt : Time} {f : Fc4 → Fc4} {s t : State} (e : rowEffect dt f s = .next t)
    (hf : ∀ p, Holds p (f p)) : Holds s.part t.part :=
  rowEffect_part e ▸ (hf _).after (s.part.elapse_holds dt)

/-- A row that is in order where what the station has in hand is. -/
theorem rowEffect_holds_inHand {dt : Time} {f : Fc4 → Fc4} {s t : State} (hand : s.part.InHand)
    (e : rowEffect dt f s = .next t) (hf : ∀ p, p.InHand → Holds p (f p)) : Holds s.part t.part :=
  rowEffect_part e ▸ (hf _ (hand.elapse dt)).after (s.part.elapse_holds dt)

theorem heardRow_holds {dt : Time} {len : Nat} {h : Header} {wf b : Bool} {f : PeerRecord → PeerRecord} {c : Fc4 → Fc4}
    {s t : State} (e : heardRow dt len h wf b f c s = .next t) (hc : ∀ p, Holds p (c p)) : Holds s.part t.part := by
  refine rowEffect_holds e fun p => onlyIf_holds fun _ => ?_
  split
  · exact (Fc4.heardFrom_holds _ _ _ _ _ hc).after p.lineUsed_holds
  · exact (Fc4.heardFrom_holds _ _ _ _ _ Holds.refl).after p.lineUsed_holds

theorem sequencerRow_holds {dt : Time} {len : Nat} {f : Fc4 → Fc4} {s t : State}
    (e : sequencerRow dt len f s = .next t) (hf : ∀ p, p.receiving = true → Holds p (f p)) :
    Holds s.part t.part := by
  refine rowEffect_holds e fun p => onlyIf_holds fun heard => ?_
  have receives : p.lineUsed.receiving = true := by
    have hearing := Fc4.hears_hearing heard
    simp only [Fc4.hearing, Bool.and_eq_true] at hearing
    exact hearing.1
  exact (Fc4.recheck_flow _).holds.after ((hf _ receives).after p.lineUsed_holds)

theorem commandRow_holds {dt : Time} {target : Station} {c : Command} {taken : Fc4 → Bool} {f : Fc4 → Fc4} {s t : State}
    (e : sequencerRow dt 1 (commandEffect c target taken f) s = .next t) (hf : ∀ p, taken p = true → Holds p (f p)) :
    Holds s.part t.part :=
  sequencerRow_holds e fun p _ => commandEffect_holds p (hf p)

/-! ### Effects that are no flow -/

theorem Fc4.resetNow_holds (s : Fc4) (source : ResetSource) (hold : ResetHold) (r : CarriageReading) :
    Holds s (s.resetNow source hold r) := fun _ => (s.resetNow_sound source hold r).held

/-- A cause that ends in a reset with another cause is struck out, and no more. -/
theorem Holds.strikeOut {p : Fc4} {h h' : ResetHold} (hh : p.ctl.resetHold = some h) :
    Holds p { p with ctl := { p.ctl with resetHold := some h' } } := by
  have deaf : p.receiving ≠ true := by simp [Fc4.receiving, hh]
  exact fun k => ⟨fun a => absurd (k.covered a).1 deaf, fun m n => absurd (k.starts m n).1 deaf, k.joins, k.unpaired,
    k.lines⟩

/-- The end of a reset, in whatever mode: no area is trusted while a reset lasts, and no start-up position is known. -/
theorem Fc4.endReset_holds_of_hold (s : Fc4) (st : Straps) (h : s.ctl.resetHold.isSome = true) :
    Holds s (s.endReset st) := by
  intro k
  have deaf : s.receiving ≠ true := by
    obtain ⟨hold, hh⟩ := Option.isSome_iff_exists.1 h
    simp [Fc4.receiving, hh]
  by_cases hm : s.ctl.mode = .starting
  · refine s.endReset_holds st h ?_ k
    by_contra known
    exact deaf (k.starts hm known).1
  · exact .untrusted (fun a => deaf (k.covered a).1) hm k.lines

/-- A change of the link that opens no join window. -/
theorem Holds.ofLink {s : Fc4} {l : Link} (h : l.join ≠ .closed → s.link.join ≠ .closed) :
    Holds s { s with link := l } :=
  fun k => ⟨k.covered, k.starts, fun m j => k.joins m (h j), k.unpaired, k.lines⟩

theorem Link.holdJoin_closed {l : Link} (h : l.holdJoin.join ≠ .closed) : l.join ≠ .closed := by
  unfold Link.holdJoin at h
  split at h
  · simp_all
  · exact h

theorem Link.restartJoin_closed {l : Link} {due : Time} (h : (l.restartJoin due).join ≠ .closed) : l.join ≠ .closed := by
  unfold Link.restartJoin at h
  split at h
  · simp_all
  · exact h

/-- A change of the measurement record that leaves the force and return switches. -/
theorem Holds.ofMeasuring {s : Fc4} {m : Meas} (h : (m.forceSw, m.retSw) = (s.meas.forceSw, s.meas.retSw)) :
    Holds s { s with meas := m } := by
  rw [Prod.mk.injEq] at h
  exact .same (by simp [Fc4.heldView, h])

theorem Meas.conclude_switches (m : Meas) (a : Arithmetic) (now : Time) :
    ((m.conclude a now).forceSw, (m.conclude a now).retSw) = (m.forceSw, m.retSw) := rfl

theorem Meas.converterSample_switches (m : Meas) (code : Nat) (now : Time) :
    ((m.converterSample code now).forceSw, (m.converterSample code now).retSw) = (m.forceSw, m.retSw) := by
  unfold Meas.converterSample; dsimp only
  repeat' split
  all_goals rfl

theorem Meas.rangeOn_switches (m : Meas) (b : Nat) (now : Time) :
    ((m.rangeOn b now).forceSw, (m.rangeOn b now).retSw) = (m.forceSw, m.retSw) := by
  unfold Meas.rangeOn; dsimp only; split <;> rfl

theorem Meas.checkB_switches (m : Meas) (code : Nat) (now : Time) :
    ((m.checkB code now).forceSw, (m.checkB code now).retSw) = (m.forceSw, m.retSw) := by
  unfold Meas.checkB; dsimp only
  repeat' split
  · exact Meas.rangeOn_switches _ _ _
  · rfl
  · exact Meas.rangeOn_switches _ _ _

theorem Meas.endTiming_switches (m : Meas) (t : Option Nat) (stray : Nat) (now : Time) :
    ((m.endTiming t stray now).forceSw, (m.endTiming t stray now).retSw) = (m.forceSw, m.retSw) := by
  unfold Meas.endTiming; dsimp only
  repeat' split
  all_goals rfl

theorem Fc4.join_open_of_joinOver {s : Fc4} (h : s.joinOver = true) : s.link.join ≠ .closed := by
  intro closed; simp [Fc4.joinOver, closed] at h

theorem Fc4.onLine_of_ownFrame {s : Fc4} {k : FrameKind} {f : OwnFrame} (h : s.ownFrame k = some f) :
    s.link.onLine = some f := by
  unfold Fc4.ownFrame at h
  split at h
  · exact (Option.filter_eq_some_iff.1 h).1
  · cases h

theorem Fc4.recordAskSent_holds (s : Fc4) (fr : OwnFrame) : Holds s (s.recordAskSent fr) := by
  unfold Fc4.recordAskSent; split
  · exact .refl s
  · exact .same rfl

/-- Z and what is handed over change, and nothing of the axes (chapter 06). -/
theorem Fc4.beginDescent_holds (s : Fc4) (pad : Pos) (p : Nat) : Holds s (s.beginDescent pad p) := by
  unfold Fc4.beginDescent; dsimp only; split <;> exact .same rfl

theorem Fc4.land_holds (s : Fc4) (e : Entry) : Holds s (s.land e) :=
  .same (by simp [Fc4.heldView, Fc4.land, Link.steady_join (s.link.fillTouch_steady _)])

theorem Fc4.goLift_holds (s : Fc4) : Holds s s.goLift := by
  exact .same (by unfold Fc4.goLift Fc4.beginLift Fc4.mapTouch Motion.lift; split <;> rfl)

theorem Fc4.afterTouchdown_holds (s : Fc4) (e : Entry) : Holds s (s.afterTouchdown e) := by
  unfold Fc4.afterTouchdown; repeat' split
  · exact (s.startSolo_flow e).holds
  · exact (Fc4.meet_flow _).holds.after (s.mapRdv_flow _).holds
  · exact s.goLift_holds

theorem working_of_resting {m : Mode} (h : resting m = true) : working m = true := by
  cases m <;> simp_all [resting, working]

theorem Fc4.pauseNow_holds (s : Fc4) (h : working s.ctl.mode = true) : Holds s s.pauseNow :=
  (Fc4.refreshWaiting_flow _).holds.after ((Fc4.pauseCheck_flow _).holds.after (s.setMode_holds _ h rfl))

theorem Fc4.liftEnded_holds (s : Fc4) : Holds s s.liftEnded := by
  unfold Fc4.liftEnded; dsimp only
  have raised : Holds s { s with motion := { s.motion with
      zState := .raised, z := 0, filter := 0, latch := s.motion.latch && s.geo.hold } } := .same rfl
  generalize ({ s with motion := { s.motion with
      zState := .raised, z := 0, filter := 0, latch := s.motion.latch && s.geo.hold } } : Fc4) = u at raised ⊢
  refine .after ?_ raised
  repeat' split
  · exact (u.endTouch_flow _).holds
  · exact u.yieldIfReady_flow.holds
  · exact (Fc4.yieldIfReady_flow _).holds.after u.closeCheck_flow.holds
  · exact u.yieldIfReady_flow.holds
  · exact (Fc4.parkProceeds_flow _).holds.after u.yieldIfReady_flow.holds

/-! ### The rows, one by one -/

/-- Every row keeps the held area and the held lines in order, from a state with its own frames and moves in order. -/
theorem exec_holds {i : Instr} {s t : State} (hand : s.part.InHand) (e : exec i s = .next t) : Holds s.part t.part := by
  cases i with
  | powerOn dt r =>
    unfold exec execPowerOn at e
    exact rowEffect_holds e fun p => p.resetNow_holds _ _ _
  | powerOnSettled dt straps =>
    unfold exec execPowerOnSettled at e
    refine rowEffect_holds e fun p => ?_
    split
    · rename_i hh; repeat' split
      · exact .strikeOut hh
      · exact p.endReset_holds_of_hold straps (by simp [hh])
      · exact .refl p
    · exact .refl p
  | resetLineAsserted dt r =>
    unfold exec execResetLineAsserted at e
    refine rowEffect_holds e fun p => ?_
    split
    · exact p.resetNow_holds _ _ _
    · exact p.resetNow_holds _ _ _
  | resetLineReleased dt straps =>
    unfold exec execResetLineReleased at e
    refine rowEffect_holds e fun p => ?_
    split
    · rename_i hh; repeat' split
      · exact .strikeOut hh
      · exact p.endReset_holds_of_hold straps (by simp [hh])
      · exact .refl p
    · exact .refl p
  | imageReadTimeout dt =>
    unfold exec execImageReadTimeout at e
    refine rowEffect_holds e fun p => onlyIf_holds fun h => p.judge_holds _ ?_
    simp only [Fc4.imagePending, Bool.and_eq_true, decide_eq_true_eq] at h; exact h.1.1.2
  | imageJudged dt image =>
    unfold exec execImageJudged at e
    refine rowEffect_holds e fun p => onlyIf_holds fun h => p.judge_holds _ ?_
    simp only [Fc4.imagePending, Bool.and_eq_true, decide_eq_true_eq] at h; exact h.1.1.1.2
  | stopWaitEnd dt =>
    unfold exec execStopWaitEnd at e
    refine rowEffect_holds e fun p => onlyIf_holds fun h => ?_
    simp only [Bool.and_eq_true, decide_eq_true_eq] at h
    obtain ⟨⟨⟨hears, starting⟩, _⟩, _⟩ := h
    exact p.stopWaitOver_holds starting hears
  | joinWindowEnd dt =>
    unfold exec execJoinWindowEnd at e
    refine rowEffect_holds e fun p => onlyIf_holds fun h => ?_
    simp only [Bool.and_eq_true, decide_eq_true_eq] at h
    obtain ⟨⟨_, starting⟩, expired⟩ := h
    exact p.joinEnd_holds starting (Fc4.join_open_of_joinOver expired)
  | offer dt rivals =>
    unfold exec execOffer at e
    exact rowEffect_holds e fun p => onlyIf_holds fun _ => p.offer_holds rivals
  | bitFault dt passed =>
    unfold exec execBitFault at e
    refine rowEffect_holds e fun p => onlyIf_holds fun _ => ?_
    have dropped : Holds p ({ p with link := p.link.dropFrame } : Fc4).flushRelease :=
      (Fc4.flushRelease_flow _).holds.after (.same rfl)
    refine (Fc4.recheck_flow _).holds.after ((Fc4.closeCheck_flow _).holds.after ?_)
    split
    · exact ((Fc4.duplicate_holds _).after (Fc4.lineUsed_holds _)).after dropped
    · exact ((Fc4.countFailure_holds _).after (Fc4.trustNoPeer_holds _)).after dropped
  | checkFailure dt =>
    unfold exec execCheckFailure at e
    exact rowEffect_holds e fun p => onlyIf_holds fun _ => (Fc4.recheck_flow _).holds.after p.trustNoPeer_holds
  | ownCopyFail dt =>
    unfold exec execOwnCopyFail at e
    exact rowEffect_holds e fun p => onlyIf_holds fun _ =>
      (Fc4.recheck_flow _).holds.after ((Fc4.closeCheck_flow _).holds.after ((Fc4.countFailure_holds _).after
        ((Fc4.flushRelease_flow _).holds.after ((Fc4.lineUsed_holds _).after (p.completeFrame_holds false)))))
  | claimGranted dt =>
    unfold exec execClaimGranted at e
    refine rowEffect_holds_inHand hand e fun p hand => ?_
    repeat' split
    · rename_i frame own _ f claims
      exact p.claimCompletes_holds _ _ (hand.claim frame f (Fc4.onLine_of_ownFrame own) claims)
    all_goals exact .refl p
  | releaseCompleted dt =>
    unfold exec execReleaseCompleted at e
    refine rowEffect_holds_inHand hand e fun p hand => ?_
    repeat' split
    · rename_i frame own _ f releases
      exact p.releaseCompletes_holds _ (hand.release frame f (Fc4.onLine_of_ownFrame own) releases)
    all_goals exact .refl p
  | askSent dt =>
    unfold exec execAskSent at e
    refine rowEffect_holds e fun p => ?_
    split
    · exact (Fc4.recheck_flow _).holds.after ((Fc4.recordAskSent_holds _ _).after p.complete_holds)
    · exact .refl p
  | touchSent dt =>
    unfold exec execTouchSent at e
    refine rowEffect_holds e fun p => ?_
    split
    · exact (Fc4.recheck_flow _).holds.after p.complete_holds
    · exact .refl p
  | pairSent dt =>
    unfold exec execPairSent at e
    refine rowEffect_holds e fun p => ?_
    repeat' split
    · exact (Fc4.recheck_flow _).holds.after ((Fc4.pairCompletes_flow _ _).holds.after p.complete_holds)
    all_goals exact .refl p
  | beaconSent dt =>
    unfold exec execBeaconSent at e
    refine rowEffect_holds e fun p => ?_
    split
    · exact (Fc4.recheck_flow _).holds.after p.complete_holds
    · exact .refl p
  | statusSent dt =>
    unfold exec execStatusSent at e
    refine rowEffect_holds e fun p => ?_
    split
    · have emptied : Holds p.complete { p.complete with results := { p.results with refusals := [], overflow := 0 } } :=
        .same rfl
      exact (Fc4.recheck_flow _).holds.after (emptied.after p.complete_holds)
    · exact .refl p
  | resultSent dt =>
    unfold exec execResultSent at e
    refine rowEffect_holds e fun p => ?_
    repeat' split
    · exact (Fc4.recheck_flow _).holds.after ((Fc4.resultsLeave_holds _ _).after p.complete_holds)
    all_goals exact .refl p
  | dupStationFrame dt =>
    unfold exec execDupStationFrame at e
    exact rowEffect_holds e fun p => onlyIf_holds fun _ =>
      (Fc4.recheck_flow _).holds.after ((Fc4.duplicate_holds _).after p.lineUsed_holds)
  | transmitterCutOff dt =>
    unfold exec execTransmitterCutOff at e
    exact rowEffect_holds e fun p => onlyIf_holds fun _ =>
      (Fc4.closeCheck_flow _).holds.after ((Fc4.cutOffMode_holds _).after
        ((Fc4.flushRelease_flow _).holds.after (.same rfl)))
  | linkDownEntry dt =>
    unfold exec execLinkDownEntry at e
    exact rowEffect_holds e fun p => onlyIf_holds fun _ => .ofLink Link.holdJoin_closed
  | linkDownEnd line =>
    unfold exec execLinkDownEnd at e
    exact rowEffect_holds e fun p => onlyIf_holds fun _ =>
      (Fc4.recheck_flow _).holds.after ((Fc4.trustNoPeer_holds _).after (.ofLink Link.restartJoin_closed))
  | beaconTimer dt =>
    unfold exec execBeaconTimer at e
    refine rowEffect_holds e fun p => ?_
    split
    · exact p.fillBeacon_holds _
    · exact .refl p
  | beaconReceived dt h b =>
    unfold exec execBeaconReceived at e
    exact heardRow_holds e fun p => p.beaconHeard_holds _ _
  | claimReceived dt h b =>
    unfold exec execClaimReceived at e
    exact heardRow_holds e fun p => .same rfl
  | releaseReceived dt h b =>
    unfold exec execReleaseReceived at e
    exact heardRow_holds e fun p => p.releaseHeard_holds _ _
  | askReceived dt h target b =>
    unfold exec execAskReceived at e
    exact heardRow_holds e fun p => p.askHeard_holds _ _ _
  | touchReceived dt h b =>
    unfold exec execTouchReceived at e
    exact heardRow_holds e fun p => p.touchHeard_holds _ _
  | joinedReceived dt h target tag =>
    unfold exec execJoinedReceived at e
    exact heardRow_holds e fun p => p.joinedHeard_holds _ _ _
  | doneReceived dt h target tag =>
    unfold exec execDoneReceived at e
    exact heardRow_holds e fun p => p.doneHeard_holds _ _ _
  | abandonReceived dt h target reason tag =>
    unfold exec execAbandonReceived at e
    exact heardRow_holds e fun p => p.abandonHeard_holds _ _ _
  | statusHeard dt h =>
    unfold exec execStatusHeard at e
    exact heardRow_holds e Holds.refl
  | resultHeard dt h =>
    unfold exec execResultHeard at e
    exact heardRow_holds e Holds.refl
  | unassignedFrame dt h =>
    unfold exec execUnassignedFrame at e
    exact heardRow_holds e Holds.refl
  | invalidSenderFrame dt h =>
    unfold exec execInvalidSenderFrame at e
    exact heardRow_holds e Holds.refl
  | malformedFrame dt h =>
    unfold exec execMalformedFrame at e
    exact heardRow_holds e Holds.refl
  | peerSilence dt peer =>
    unfold exec execPeerSilence at e
    refine rowEffect_holds e fun p => ?_
    split
    · exact onlyIf_holds fun _ => (Fc4.recheck_flow _).holds.after
        ((Fc4.pairRecheck_flow _).holds.after (p.peerSilent_holds _ _))
    · exact .refl p
  | lineRestExpiry dt line =>
    unfold exec execLineRestExpiry at e
    exact rowEffect_holds e fun p => onlyIf_holds fun _ => .same rfl
  | claimRecheckTimer dt =>
    unfold exec execClaimRecheckTimer at e
    exact rowEffect_holds e fun p => onlyIf_holds fun _ => (Fc4.recheck_flow _).holds.after (.same rfl)
  | claimGiveUp dt =>
    unfold exec execClaimGiveUp at e
    refine rowEffect_holds e fun p => ?_
    split
    · exact (p.giveUp_flow _).holds
    · exact .refl p
  | yieldShadowExpiry dt asker =>
    unfold exec execYieldShadowExpiry at e
    exact rowEffect_holds e fun p => onlyIf_holds fun _ => (Fc4.recheck_flow _).holds.after
      (.same rfl)
  | loadReceived dt target records =>
    unfold exec execLoadReceived at e
    refine sequencerRow_holds e fun p _ => ?_
    split
    · exact p.load_holds records
    · exact .refl p
  | moveCommand dt =>
    unfold exec execMoveCommand at e
    refine rowEffect_holds_inHand hand e fun p hand => ?_
    split
    · rename_i m permitted
      obtain ⟨trusted, covered⟩ := hand.permitted m permitted
      exact onlyIf_holds fun _ => p.commandMove_holds m trusted covered
    · exact .refl p
  | axisReport dt a r =>
    unfold exec execAxisReport at e
    exact rowEffect_holds e fun p => p.axisReport_holds a r
  | moveEnd dt =>
    unfold exec execMoveEnd at e
    refine rowEffect_holds e fun p => ?_
    split
    · exact p.moveEnds_holds _
    · exact .refl p
  | carriageStopped dt =>
    unfold exec execCarriageStopped at e
    exact rowEffect_holds e fun p => onlyIf_holds fun _ => p.carriageStands_holds
  | descentBegin dt =>
    unfold exec execDescentBegin at e
    refine rowEffect_holds e fun p => ?_
    split
    · exact onlyIf_holds fun _ => p.beginDescent_holds _ _
    · exact .refl p
  | fastTargetReached dt =>
    unfold exec execFastTargetReached at e
    refine rowEffect_holds e fun p => ?_
    split
    · exact .same rfl
    · exact .refl p
  | touchdown dt =>
    unfold exec execTouchdown at e
    refine rowEffect_holds e fun p => ?_
    split
    · exact onlyIf_holds fun _ => (Fc4.afterTouchdown_holds _ _).after (p.land_holds _)
    · exact .refl p
  | noContact dt =>
    unfold exec execNoContact at e
    refine rowEffect_holds e fun p => onlyIf_holds fun h => (p.failSearch_flow _ ?_).holds
    simp only [Bool.and_eq_true, decide_eq_true_eq] at h; simp [h.1.1]
  | contactLost dt =>
    unfold exec execContactLost at e
    exact rowEffect_holds e fun p => onlyIf_holds fun _ => (Fc4.failLanded_flow _ _).holds.after (.same rfl)
  | overloadLatch dt current =>
    unfold exec execOverloadLatch at e
    refine rowEffect_holds e fun p => onlyIf_holds fun _ => ?_
    have latched : Holds p { p with motion := { p.motion with latch := true } } := .same rfl
    dsimp only
    split
    · rename_i hz
      split
      · exact latched
      · exact (Fc4.failSearch_flow _ _ (by simp [hz])).holds.after latched
    · exact (Fc4.failLanded_flow _ _).holds.after latched
  | liftEnd dt =>
    unfold exec execLiftEnd at e
    exact rowEffect_holds e fun p => onlyIf_holds fun _ => p.liftEnded_holds
  | rendezvousTimeout dt =>
    unfold exec execRendezvousTimeout at e
    exact rowEffect_holds e fun p => onlyIf_holds fun _ => (p.endRendezvous_flow _ _).holds
  | converterSample dt code =>
    unfold exec execConverterSample at e
    exact rowEffect_holds e fun p => onlyIf_holds fun _ => .ofMeasuring (p.meas.converterSample_switches _ _)
  | settleSampleA dt code =>
    unfold exec execSettleSampleA at e
    exact rowEffect_holds e fun p => onlyIf_holds fun _ => .same rfl
  | settleCheck dt code =>
    unfold exec execSettleCheck at e
    exact rowEffect_holds e fun p => onlyIf_holds fun _ => .ofMeasuring (p.meas.checkB_switches _ _)
  | timingCrossing dt =>
    unfold exec execTimingCrossing at e
    exact rowEffect_holds e fun p => onlyIf_holds fun _ => .ofMeasuring (p.meas.endTiming_switches _ _ _)
  | timingTimeout dt =>
    unfold exec execTimingTimeout at e
    exact rowEffect_holds e fun p => onlyIf_holds fun _ => .ofMeasuring (p.meas.endTiming_switches _ _ _)
  | betweenDischargeEnd dt =>
    unfold exec execBetweenDischargeEnd at e
    exact rowEffect_holds e fun p => onlyIf_holds fun _ => .ofMeasuring rfl
  | finalDischargeEnd dt =>
    unfold exec execFinalDischargeEnd at e
    exact rowEffect_holds e fun p => onlyIf_holds fun _ => p.finalDischargeOver_flow.holds
  | abortDischargeEnd dt =>
    unfold exec execAbortDischargeEnd at e
    exact rowEffect_holds e fun p => onlyIf_holds fun _ => p.abortEnded_flow.holds
  | resetDischargeEnd dt =>
    unfold exec execResetDischargeEnd at e
    exact rowEffect_holds e fun p => onlyIf_holds fun _ => p.resetDischarged_flow.holds
  | resultAgeTrigger dt =>
    unfold exec execResultAgeTrigger at e
    refine rowEffect_holds e fun p => ?_
    repeat' split
    · exact p.testPacking_flow.holds
    all_goals exact .refl p
  | halt dt target =>
    unfold exec execHalt at e
    refine sequencerRow_holds e fun p _ => ?_
    split
    · exact (p.enterStopped_flow .halt (by simp) ‹_›).holds
    · exact .refl p
  | start dt target =>
    unfold exec execStart at e
    refine commandRow_holds e fun p h => (Fc4.testStart_flow _).holds.after (p.setMode_holds _ ?_ rfl)
    simp only [Fc4.takesStart, Bool.and_eq_true] at h
    exact working_of_resting h.1
  | pause dt target =>
    unfold exec execPause at e
    refine commandRow_holds e fun p h => p.pauseNow_holds ?_
    rw [decide_eq_true_eq] at h
    simp [h, working]
  | clear dt target =>
    unfold exec execClear at e
    refine sequencerRow_holds e fun p receives => ?_
    split
    · refine (Fc4.reportCommand_holds _ _ _).after ?_
      split
      · exact p.clearStop_holds receives ‹_›
      · exact .refl p
    · exact .refl p
  | purge dt target =>
    unfold exec execPurge at e
    exact commandRow_holds e fun p _ => (Fc4.refreshWaiting_flow _).holds.after (.same rfl)
  | park dt target =>
    unfold exec execPark at e
    exact commandRow_holds e fun p _ => p.parkNow_flow.holds
  | query dt target =>
    unfold exec execQuery at e
    exact commandRow_holds e fun p _ => .refl p
  | reset dt target straps r =>
    unfold exec execReset at e
    refine rowEffect_holds e fun p => onlyIf_holds fun _ => ?_
    dsimp only
    repeat' split
    · exact (Fc4.recheck_flow _).holds.after ((Fc4.reportCommand_holds _ _ _).after p.lineUsed_holds)
    · exact (Fc4.endReset_holds_of_hold _ straps rfl).after (Fc4.resetNow_holds _ _ _ _)
    · exact (Fc4.recheck_flow _).holds.after p.lineUsed_holds
  | unknownCommand dt target code =>
    unfold exec execUnknownCommand at e
    exact sequencerRow_holds e fun p _ => .refl p
  | contactInputSample dt asserted =>
    unfold exec execContactInputSample at e
    exact rowEffect_holds e fun p => onlyIf_holds fun _ => .same rfl


theorem step_holds {s t : State} (hand : s.part.InHand) (h : step s = .next t) : Holds s.part t.part := by
  rcases step_part h with same | ⟨i, rest, row⟩
  · exact same ▸ .refl _
  · have kept := exec_holds (s := { s with pending := rest }) hand row
    exact kept

/-- Settles O7: what every row keeps, and what it keeps of the held area where the station's own frames and moves are
in order. -/
theorem stimulusAndMotionStaySafe : Obligations.StimulusAndMotionStaySafe := fun _ _ h =>
  have k := step_keeps h
  ⟨k.stimulus, k.motion, fun hand => step_holds hand h⟩

/-- Settles O8: the state after a reset is sound, and it has nothing in hand. -/
theorem resetStateIsSound : Obligations.ResetStateIsSound := by
  unfold Obligations.ResetStateIsSound
  refine ⟨Fc4.afterReset_sound _ _ _ rfl rfl rfl, ⟨?_, ?_, ?_⟩, rfl⟩
  · intro f r h; cases h
  · intro f c h; cases h
  · intro m h; cases h

end Sys2Proof.Machine
end

section
/-! PROOF. The clock and the mode over a row (O2, O3), and what the tests that follow a row leave as it was (O32). -/

namespace Sys2Proof.Machine

/-! ### Operations that leave Mode Control as it was -/

@[simp] theorem Fc4.noteBlocked_ctl (s : Fc4) : s.noteBlocked.ctl = s.ctl := by unfold Fc4.noteBlocked; split <;> rfl

@[simp] theorem Fc4.reviewAsk_ctl (s : Fc4) (b : Box) : (s.reviewAsk b).ctl = s.ctl := by
  unfold Fc4.reviewAsk; repeat' split
  · exact s.endAsk_ctl
  · rfl
  · rfl

@[simp] theorem Fc4.createAsk_ctl (s : Fc4) (c : Claim) : (s.createAsk c).ctl = s.ctl := by
  unfold Fc4.createAsk; repeat' split
  all_goals rfl

@[simp] theorem Fc4.claimFails_ctl (s : Fc4) (c : Claim) : (s.claimFails c).ctl = s.ctl := by simp [Fc4.claimFails]

@[simp] theorem Fc4.claimFills_ctl (s : Fc4) (c : Claim) : (s.claimFills c).ctl = s.ctl := by simp [Fc4.claimFills]

@[simp] theorem Fc4.examine_ctl (s : Fc4) : s.examine.ctl = s.ctl := by
  unfold Fc4.examine; repeat' split
  · rfl
  · exact s.claimFails_ctl _
  · exact s.claimFills_ctl _
  · exact s.claimFails_ctl _

@[simp] theorem Fc4.recheck_ctl (s : Fc4) : s.recheck.ctl = s.ctl := by
  unfold Fc4.recheck; split
  · exact s.examine_ctl
  · rfl

@[simp] theorem Fc4.createClaim_ctl (s : Fc4) (c : Claim) : (s.createClaim c).ctl = s.ctl := by simp [Fc4.createClaim]

@[simp] theorem Fc4.requestMove_ctl (s : Fc4) (who : Requester) (q : Pos) : (s.requestMove who q).ctl = s.ctl := by
  unfold Fc4.requestMove; dsimp only; split
  · exact s.withdrawClaim_ctl
  · exact s.createClaim_ctl _

@[simp] theorem Fc4.testPacking_ctl (s : Fc4) : s.testPacking.ctl = s.ctl := by unfold Fc4.testPacking; split <;> rfl

@[simp] theorem Fc4.joinQueue_ctl (s : Fc4) (r : ResultRecord) : (s.joinQueue r).ctl = s.ctl := by simp [Fc4.joinQueue]

@[simp] theorem Fc4.produceResult_ctl (s : Fc4) (id : Nat) (r : ResultRecord) : (s.produceResult id r).ctl = s.ctl := by
  unfold Fc4.produceResult; split <;> simp

@[simp] theorem Fc4.deferEntry_ctl (s : Fc4) (e : Entry) : (s.deferEntry e).ctl = s.ctl := rfl

@[simp] theorem Fc4.enterClaim_ctl (s : Fc4) (e : Entry) : (s.enterClaim e).ctl = s.ctl := by
  unfold Fc4.enterClaim; split
  · rfl
  · exact s.requestMove_ctl _ _

@[simp] theorem Fc4.activate_ctl (s : Fc4) (e : Entry) : (s.activate e).ctl = s.ctl := by simp [Fc4.activate]

@[simp] theorem startTurns_ctl : ∀ (n : Nat) (s : Fc4), (startTurns n s).ctl = s.ctl := by
  intro n
  induction n with
  | zero => intro s; rfl
  | succ n ih =>
    intro s
    unfold startTurns
    repeat' split
    · rfl
    · exact s.activate_ctl _
    · rw [ih, Fc4.deferEntry_ctl]
    · rw [ih, Fc4.produceResult_ctl]
    · rfl

@[simp] theorem Fc4.testStart_ctl (s : Fc4) : s.testStart.ctl = s.ctl := by
  simp [Fc4.testStart, Fc4.refreshWaiting]

/-! ### The clock and the mode -/

/-- The clock stands, and the mode changes as a flow may change it: not at all, to PAUSED where a pause waited for a
touch, or from a working mode to STOPPED. -/
structure Paced (s t : Fc4) : Prop where
  now  : t.now = s.now
  mode : modeFlow s.ctl.mode t.ctl.mode

theorem Paced.same {s t : Fc4} (hn : t.now = s.now) (hm : t.ctl.mode = s.ctl.mode) : Paced s t := ⟨hn, .inl hm⟩

theorem Paced.refl (s : Fc4) : Paced s s := .same rfl rfl

theorem Paced.after {s t u : Fc4} (g : Paced t u) (h : Paced s t) : Paced s u :=
  ⟨g.now.trans h.now, modeFlow_trans h.mode g.mode⟩

theorem Flow.now {s t : Fc4} (h : Flow s t) : t.now = s.now := congrArg Prod.fst h.steady

theorem Flow.paced {s t : Fc4} (h : Flow s t) : Paced s t := ⟨h.now, h.mode⟩

theorem onlyIf_paced {c : Bool} {f : Fc4 → Fc4} {s : Fc4} (h : c = true → Paced s (f s)) : Paced s (onlyIf c f s) := by
  unfold onlyIf; split
  · exact h ‹_›
  · exact .refl s

theorem Fc4.lineUsed_paced (s : Fc4) : Paced s s.lineUsed := .same rfl rfl
theorem Fc4.complete_paced (s : Fc4) : Paced s s.complete := .same rfl rfl
theorem Fc4.reportCommand_paced (s : Fc4) (c : Command) (o : CommandOutcome) : Paced s (s.reportCommand c o) := .same rfl rfl

theorem Fc4.enterStopped_paced (s : Fc4) (r : StopReason) (hr : r ≠ .noReason) (hw : working s.ctl.mode = true) :
    Paced s (s.enterStopped r) := (s.enterStopped_flow r hr hw).paced

theorem Fc4.duplicate_paced (s : Fc4) : Paced s s.duplicate := by
  unfold Fc4.duplicate; split
  · exact .same rfl rfl
  · exact .same rfl rfl
  · split
    · exact .refl s
    · exact .same rfl rfl
  · exact s.enterStopped_paced _ (by simp) (working_of_ne ‹_› ‹_› ‹_›)

theorem Fc4.cutOffMode_paced (s : Fc4) : Paced s s.cutOffMode := by
  unfold Fc4.cutOffMode; split
  · exact .same rfl rfl
  · exact .same rfl rfl
  · split
    · exact .refl s
    · exact .same rfl rfl
  · exact s.enterStopped_paced _ (by simp) (working_of_ne ‹_› ‹_› ‹_›)

theorem Fc4.axisFaulted_paced (s : Fc4) : Paced s s.axisFaulted := by
  unfold Fc4.axisFaulted; split
  · exact .same rfl rfl
  · exact .refl s
  · split
    · exact .refl s
    · exact .same rfl rfl
  · exact s.enterStopped_paced _ (by simp) (working_of_ne ‹_› ‹_› ‹_›)

theorem Fc4.countFailure_paced (s : Fc4) : Paced s s.countFailure := by
  unfold Fc4.countFailure; dsimp only; repeat' split
  · exact .same rfl rfl
  · exact (Fc4.enterStopped_paced _ _ (by simp) ‹_›).after (.same rfl rfl)
  · exact .same rfl rfl

theorem Fc4.trustNoPeer_paced (s : Fc4) : Paced s s.trustNoPeer := (Fc4.pairRecheck_flow _).paced.after (.same rfl rfl)

theorem Fc4.offer_paced (s : Fc4) (rivals : List Byte) : Paced s (s.offer rivals) := by
  have examined : Paced s s.examineOffer := by
    unfold Fc4.examineOffer; split
    · exact s.offerExamination_flow.paced
    · exact .refl s
  unfold Fc4.offer; dsimp only
  generalize s.examineOffer = u at examined ⊢
  refine .after ?_ examined
  split
  · unfold Fc4.beginFrame; repeat' split
    · exact .same rfl rfl
    · exact .same rfl rfl
    · exact .refl u
  · exact .refl u

/-! ### Frames heard: a flow, once the sender's note and a sample have been taken -/

/-- A flow from `s` once the notes have changed. -/
def Noted (s t : Fc4) : Prop := ∃ notes, Flow { s with pair := { s.pair with notes } } t

theorem Flow.noted {s t : Fc4} (h : Flow s t) : Noted s t := ⟨s.pair.notes, h⟩

theorem Noted.paced {s t : Fc4} (h : Noted s t) : Paced s t := by
  obtain ⟨_, flow⟩ := h
  exact ⟨flow.now, flow.mode⟩

theorem Fc4.beaconHeard_flow (s : Fc4) (p : Station) (b : BeaconBody) : Flow s (s.beaconHeard p b) := by
  unfold Fc4.beaconHeard; repeat' split
  · exact s.endAsk_flow
  · exact .refl s
  · exact .refl s

theorem Fc4.claimHeard_flow (s : Fc4) (p : Station) (b : ClaimBody) : Flow s (s.claimHeard p b) :=
  ⟨rfl, id, id, id, id, fun h => h.sublist (List.filter_sublist.map _), id, id, fun k => k.same rfl fun _ => id, .inl rfl⟩

theorem Fc4.havenAnswer_flow (s : Fc4) (p : Station) : Flow s (s.havenAnswer p) := by
  unfold Fc4.havenAnswer; repeat' split
  · exact s.giveUp_flow _
  · exact .refl s
  · exact .refl s

theorem Fc4.releaseHeard_flow (s : Fc4) (p : Station) (b : ReleaseBody) : Flow s (s.releaseHeard p b) := by
  unfold Fc4.releaseHeard; repeat' split
  · exact (Fc4.havenAnswer_flow _ p).after s.endAsk_flow
  · exact s.endAsk_flow
  all_goals exact .refl s

theorem Fc4.admitAsk_flow (s : Fc4) (p : Station) (b : Box) : Flow s (s.admitAsk p b) := by
  have joined : Flow s { s with resv := { s.resv with asks := tablePut p.val b s.resv.asks } } :=
    ⟨rfl, id, id, id, fun h => tablePut_sorted _ _ h, id, id, id, fun k => k.same rfl fun _ => id, .inl rfl⟩
  unfold Fc4.admitAsk; dsimp only; split
  · exact joined
  · exact (Fc4.yieldFallsDue_flow _).after joined

theorem Fc4.askHeard_flow (s : Fc4) (p t : Station) (b : Box) : Flow s (s.askHeard p t b) := by
  unfold Fc4.askHeard; repeat' split
  · exact (Fc4.admitAsk_flow _ p b).after s.endAsk_flow
  · exact .refl s
  · exact s.admitAsk_flow p b
  · exact s.admitAsk_flow p b
  · exact .refl s

theorem Fc4.joinedHeard_flow (s : Fc4) (p t : Station) (tag : Nat) : Flow s (s.joinedHeard p t tag) := by
  unfold Fc4.joinedHeard; repeat' split
  · exact s.mapRdv_flow _
  · exact s.mapRdv_flow _
  · exact s.mapRdv_flow _
  · exact s.startMeasuring_flow
  all_goals exact .refl s

theorem Fc4.doneHeard_noted (s : Fc4) (p t : Station) (tag : Nat) : Noted s (s.doneHeard p t tag) := by
  refine ⟨(s.dropNote p).pair.notes, ?_⟩
  unfold Fc4.doneHeard; dsimp only
  repeat' split
  · exact (s.dropNote p).sensed_flow
  · exact (s.dropNote p).endRendezvous_flow _ _
  · exact (s.dropNote p).endRendezvous_flow _ _
  · exact (s.dropNote p).endRendezvous_flow _ _
  all_goals exact .refl (s.dropNote p)

theorem Fc4.abandonHeard_noted (s : Fc4) (p t : Station) (tag : Nat) : Noted s (s.abandonHeard p t tag) := by
  refine ⟨(s.dropNote p).pair.notes, ?_⟩
  unfold Fc4.abandonHeard; dsimp only
  repeat' split
  · exact (s.dropNote p).endRendezvous_flow _ _
  · exact .refl (s.dropNote p)
  · exact (s.dropNote p).removeAbandoned_flow p tag
  · exact .refl (s.dropNote p)

/-- A TOUCH may also have given the Height Table a sample. -/
theorem Fc4.touchHeard_noted (s : Fc4) (p : Station) (b : TouchBody) :
    ∃ heights, Noted { s with heights } (s.touchHeard p b) := by
  unfold Fc4.touchHeard; dsimp only
  have sampled : ∃ heights, ({ s with pair := { s.pair with notes := noteTouch s.pair.notes p.val b } } : Fc4).peerSample b =
      { s with pair := { s.pair with notes := noteTouch s.pair.notes p.val b }, heights } := by
    unfold Fc4.peerSample; split
    · exact ⟨_, rfl⟩
    · exact ⟨_, rfl⟩
  obtain ⟨heights, same⟩ := sampled
  refine ⟨heights, noteTouch s.pair.notes p.val b, ?_⟩
  rw [same]
  repeat' split
  · exact Fc4.endRendezvous_flow _ _ _
  all_goals exact .refl _

theorem Fc4.touchHeard_paced (s : Fc4) (p : Station) (b : TouchBody) : Paced s (s.touchHeard p b) := by
  obtain ⟨_, noted⟩ := s.touchHeard_noted p b
  exact noted.paced.after (.same rfl rfl)

theorem Fc4.heardFrom_paced (s : Fc4) (h : Header) (b : Bool) (f : PeerRecord → PeerRecord) {c : Fc4 → Fc4}
    (hc : ∀ p, Paced p (c p)) : Paced s (s.heardFrom h b f c) := by
  unfold Fc4.heardFrom; repeat' split
  · exact (Fc4.recheck_flow _).paced.after s.duplicate_paced
  · exact s.recheck_flow.paced
  · exact (Fc4.recheck_flow _).paced.after ((Fc4.pairRecheck_flow _).paced.after ((hc _).after (.same rfl rfl)))


/-! ### Rows -/

theorem rowEffect_timed {M : Mode → Mode → Prop} {dt : Time} {f : Fc4 → Fc4} {s t : State}
    (e : rowEffect dt f s = .next t) (hf : ∀ p, (f p).now = p.now ∧ M p.ctl.mode (f p).ctl.mode) :
    t.part.now = s.part.now + dt ∧ M s.part.ctl.mode t.part.ctl.mode := by
  rw [rowEffect_part e]
  exact hf (s.part.elapse dt)

theorem rowEffect_paced {dt : Time} {f : Fc4 → Fc4} {s t : State} (e : rowEffect dt f s = .next t)
    (hf : ∀ p, Paced p (f p)) : t.part.now = s.part.now + dt ∧ modeFlow s.part.ctl.mode t.part.ctl.mode :=
  rowEffect_timed e fun p => ⟨(hf p).now, (hf p).mode⟩

theorem onlyIf_timed {M : Mode → Mode → Prop} {c : Bool} {f : Fc4 → Fc4} {s : Fc4} (stays : M s.ctl.mode s.ctl.mode)
    (h : c = true → (f s).now = s.now ∧ M s.ctl.mode (f s).ctl.mode) :
    (onlyIf c f s).now = s.now ∧ M s.ctl.mode (onlyIf c f s).ctl.mode := by
  unfold onlyIf; split
  · exact h ‹_›
  · exact ⟨rfl, stays⟩

theorem heardRow_paced {dt : Time} {len : Nat} {h : Header} {wf b : Bool} {f : PeerRecord → PeerRecord} {c : Fc4 → Fc4}
    {s t : State} (e : heardRow dt len h wf b f c s = .next t) (hc : ∀ p, Paced p (c p)) :
    t.part.now = s.part.now + dt ∧ modeFlow s.part.ctl.mode t.part.ctl.mode := by
  refine rowEffect_paced e fun p => onlyIf_paced fun _ => ?_
  split
  · exact (Fc4.heardFrom_paced _ _ _ _ hc).after p.lineUsed_paced
  · exact (Fc4.heardFrom_paced _ _ _ _ Paced.refl).after p.lineUsed_paced

theorem sequencerRow_paced {dt : Time} {len : Nat} {f : Fc4 → Fc4} {s t : State}
    (e : sequencerRow dt len f s = .next t) (hf : ∀ p, Paced p (f p)) :
    t.part.now = s.part.now + dt ∧ modeFlow s.part.ctl.mode t.part.ctl.mode :=
  rowEffect_paced e fun p => onlyIf_paced fun _ =>
    (Fc4.recheck_flow _).paced.after ((hf _).after p.lineUsed_paced)

theorem commandEffect_paced {c : Command} {target : Station} {taken : Fc4 → Bool} {f : Fc4 → Fc4} (s : Fc4)
    (h : taken s = true → Paced s (f s)) : Paced s (commandEffect c target taken f s) := by
  unfold commandEffect; repeat' split
  · exact (Fc4.reportCommand_paced _ _ _).after (h ‹_›)
  · exact s.reportCommand_paced _ _
  · exact .refl s

theorem commandRow_paced {dt : Time} {target : Station} {c : Command} {taken : Fc4 → Bool} {f : Fc4 → Fc4} {s t : State}
    (e : sequencerRow dt 1 (commandEffect c target taken f) s = .next t) (hf : ∀ p, taken p = true → Paced p (f p)) :
    t.part.now = s.part.now + dt ∧ modeFlow s.part.ctl.mode t.part.ctl.mode :=
  sequencerRow_paced e fun p => commandEffect_paced p (hf p)

/-- A row of station 0 whose effect changes the mode as no flow does; the examination after it leaves the mode. -/
theorem sequencerRow_timed {M : Mode → Mode → Prop} {dt : Time} {len : Nat} {f : Fc4 → Fc4} {s t : State}
    (e : sequencerRow dt len f s = .next t) (hf : ∀ p, (f p).now = p.now ∧ M p.ctl.mode (f p).ctl.mode)
    (stays : ∀ m, M m m := by exact fun _ => .inl rfl) :
    t.part.now = s.part.now + dt ∧ M s.part.ctl.mode t.part.ctl.mode := by
  refine rowEffect_timed e fun p => onlyIf_timed (stays _) fun _ => ⟨?_, ?_⟩
  · exact (Fc4.recheck_flow _).now.trans (hf _).1
  · rw [Fc4.recheck_ctl]; exact (hf p.lineUsed).2

theorem commandRow_timed {M : Mode → Mode → Prop} {dt : Time} {target : Station} {c : Command} {taken : Fc4 → Bool}
    {f : Fc4 → Fc4} {s t : State} (e : sequencerRow dt 1 (commandEffect c target taken f) s = .next t)
    (stays : ∀ m, M m m) (hf : ∀ p, taken p = true → (f p).now = p.now ∧ M p.ctl.mode (f p).ctl.mode) :
    t.part.now = s.part.now + dt ∧ M s.part.ctl.mode t.part.ctl.mode := by
  refine sequencerRow_timed e (fun p => ?_) stays
  unfold commandEffect; repeat' split
  · exact hf p ‹_›
  · exact ⟨rfl, stays _⟩
  · exact ⟨rfl, stays _⟩

/-! ### Effects that are no flow -/

theorem Fc4.claimCompletes_paced (s : Fc4) (fr : OwnFrame) (f : ClaimFill) : Paced s (s.claimCompletes fr f) := by
  have taken : Paced s (s.complete.takeClaim f).enforceOwnLines :=
    (Fc4.enforceOwnLines_flow _).paced.after (.same rfl rfl)
  unfold Fc4.claimCompletes; dsimp only
  generalize (s.complete.takeClaim f).enforceOwnLines = u at taken ⊢
  refine (Fc4.recheck_flow _).paced.after ((Fc4.closeCheck_flow _).paced.after ((Fc4.dropLinesIfDone_flow _).paced.after
    ((Fc4.flushRelease_flow _).paced.after (.after ?_ taken))))
  split
  · exact (u.reportGrant_flow _ _).paced
  · exact (u.strayGrant_flow _).paced

theorem Fc4.releaseCompletes_paced (s : Fc4) (f : ReleaseFill) : Paced s (s.releaseCompletes f) :=
  (Fc4.recheck_flow _).paced.after ((Fc4.closeCheck_flow _).paced.after ((Fc4.dropLinesIfDone_flow _).paced.after
    ((Fc4.claimLosesLines_flow _ _).paced.after ((Fc4.enforceOwnLines_flow _).paced.after (.same rfl rfl)))))

theorem Fc4.resultsLeave_paced (s : Fc4) (n : Nat) : Paced s (s.resultsLeave n) :=
  (Fc4.testPacking_flow _).paced.after ((Fc4.testStart_flow _).paced.after ((Fc4.handOver_flow _).paced.after
    (.same rfl rfl)))

theorem Fc4.recordAskSent_paced (s : Fc4) (fr : OwnFrame) : Paced s (s.recordAskSent fr) := by
  unfold Fc4.recordAskSent; split
  · exact .refl s
  · exact .same rfl rfl

theorem Fc4.peerSilent_paced (s : Fc4) (peer : Station) (r : PeerRecord) : Paced s (s.peerSilent peer r) := by
  unfold Fc4.peerSilent; dsimp only; split
  · exact (Fc4.endAsk_flow _).paced.after (.same rfl rfl)
  · exact .same rfl rfl

theorem Fc4.moveEnds_paced (s : Fc4) (m : Move) : Paced s (s.moveEnds m) := by
  unfold Fc4.moveEnds; dsimp only; split
  · exact (Fc4.touchMoveEnds_flow _).paced.after (.same rfl rfl)
  · exact (Fc4.parkMoveEnds_flow _).paced.after (.same rfl rfl)
  · exact (Fc4.testStart_flow _).paced.after ((Fc4.answerAsks_flow _ _).paced.after (.same rfl rfl))

theorem Fc4.carriageStands_paced (s : Fc4) : Paced s s.carriageStands :=
  (Fc4.releaseDue_flow _ _).paced.after (.same rfl rfl)

theorem Fc4.afterTouchdown_paced (s : Fc4) (e : Entry) : Paced s (s.afterTouchdown e) := by
  unfold Fc4.afterTouchdown; repeat' split
  · exact (s.startSolo_flow e).paced
  · exact (Fc4.meet_flow _).paced.after (s.mapRdv_flow _).paced
  · exact .same rfl rfl

theorem Fc4.liftEnded_paced (s : Fc4) : Paced s s.liftEnded := by
  unfold Fc4.liftEnded; dsimp only
  have raised : Paced s { s with motion := { s.motion with
      zState := .raised, z := 0, filter := 0, latch := s.motion.latch && s.geo.hold } } := .same rfl rfl
  generalize ({ s with motion := { s.motion with
      zState := .raised, z := 0, filter := 0, latch := s.motion.latch && s.geo.hold } } : Fc4) = u at raised ⊢
  refine .after ?_ raised
  repeat' split
  · exact (u.endTouch_flow _).paced
  · exact u.yieldIfReady_flow.paced
  · exact (Fc4.yieldIfReady_flow _).paced.after u.closeCheck_flow.paced
  · exact u.yieldIfReady_flow.paced
  · exact (Fc4.parkProceeds_flow _).paced.after u.yieldIfReady_flow.paced

theorem Fc4.load_paced (s : Fc4) (rs : List LoadRecord) : Paced s (s.load rs) := by
  have loaded : ∀ (rs : List LoadRecord) (u : Fc4), Paced u (rs.foldl Fc4.loadRecord u) := by
    intro rs
    induction rs with
    | nil => exact Paced.refl
    | cons r rs ih =>
      intro u
      refine (ih _).after ?_
      unfold Fc4.loadRecord; split <;> exact .same rfl rfl
  unfold Fc4.load; split
  · exact s.reportCommand_paced _ _
  · exact (Fc4.testStart_flow _).paced.after ((Fc4.reportCommand_paced _ _ _).after (loaded rs s))

/-- The end of preparation keeps the mode, or enters CFG_FAULT from STARTING (R183, R185). -/
theorem Fc4.preparationEnd_timed (s : Fc4) (h : s.ctl.mode = .starting) : s.preparationEnd.now = s.now ∧
    (s.preparationEnd.ctl.mode = s.ctl.mode ∨ (s.ctl.mode = .starting ∧ s.preparationEnd.ctl.mode = .cfgFault)) := by
  unfold Fc4.preparationEnd; repeat' split
  · exact ⟨rfl, .inl rfl⟩
  · exact ⟨rfl, .inr ⟨h, rfl⟩⟩
  · exact ⟨rfl, .inr ⟨h, rfl⟩⟩
  · exact ⟨rfl, .inl rfl⟩

theorem Fc4.judge_timed (s : Fc4) (g : Option ImageConfig) (h : s.ctl.mode = .starting) : (s.judge g).now = s.now ∧
    ((s.judge g).ctl.mode = s.ctl.mode ∨ (s.ctl.mode = .starting ∧ (s.judge g).ctl.mode = .cfgFault)) :=
  Fc4.preparationEnd_timed _ h

theorem Fc4.stopBlocks_now (s : Fc4) (r : StopReason) (hr : r ≠ .noReason) : (s.stopBlocks r).now = s.now :=
  (({ s with ctl := { s.ctl with mode := .idle } } : Fc4).stopBlocks_flow r hr rfl).now

theorem Fc4.chooseMode_timed (s : Fc4) : s.chooseMode.now = s.now ∧
    (s.chooseMode.ctl.mode = .idle ∨ s.chooseMode.ctl.mode = .stopped) := by
  unfold Fc4.chooseMode; repeat' split
  · exact ⟨s.stopBlocks_now _ (by simp), .inr (s.stopBlocks_mode _).1⟩
  · exact ⟨s.stopBlocks_now _ (by simp), .inr (s.stopBlocks_mode _).1⟩
  · exact ⟨s.stopBlocks_now _ (by simp), .inr (s.stopBlocks_mode _).1⟩
  · exact ⟨rfl, .inl rfl⟩

theorem Fc4.actOnFaultSeen_timed (s : Fc4) (h : s.ctl.mode = .idle ∨ s.ctl.mode = .stopped) :
    s.actOnFaultSeen.now = s.now ∧ (s.actOnFaultSeen.ctl.mode = .idle ∨ s.actOnFaultSeen.ctl.mode = .stopped) := by
  unfold Fc4.actOnFaultSeen; dsimp only; repeat' split
  · exact ⟨Fc4.stopBlocks_now _ _ (by simp), .inr (Fc4.stopBlocks_mode _ _).1⟩
  · exact ⟨rfl, h⟩
  · exact ⟨rfl, h⟩
  · exact ⟨rfl, h⟩

theorem Fc4.joinEnd_now (s : Fc4) : s.joinEnd.now = s.now :=
  (Fc4.actOnFaultSeen_timed _ (Fc4.chooseMode_timed _).2).1.trans (Fc4.chooseMode_timed _).1

theorem Fc4.joinEnd_mode (s : Fc4) : s.joinEnd.ctl.mode = .idle ∨ s.joinEnd.ctl.mode = .stopped :=
  (Fc4.actOnFaultSeen_timed _ (Fc4.chooseMode_timed _).2).2

theorem Fc4.pauseNow_mode (s : Fc4) : s.pauseNow.ctl.mode = .pausing ∨ s.pauseNow.ctl.mode = .paused := by
  unfold Fc4.pauseNow Fc4.pauseCheck Fc4.refreshWaiting; split
  · exact .inr rfl
  · exact .inl rfl

theorem Fc4.clearStop_now (s : Fc4) : s.clearStop.now = s.now := by
  unfold Fc4.clearStop; dsimp only; split
  · exact (s.releaseDue_flow _).now
  · rfl

theorem Fc4.stopped_of_accepted {s : Fc4} (h : s.judgeClear = .accepted) : s.ctl.mode = .stopped := by
  unfold Fc4.judgeClear at h
  split at h
  · assumption
  · cases h

/-! ### The rows, one by one -/

/-- Every row takes its time, and changes the mode as the rules give it to. -/
theorem exec_timed {i : Instr} {s t : State} (e : exec i s = .next t) :
    t.part.now = s.part.now + rowTime i ∧ modeStep i s.part.ctl.mode t.part.ctl.mode := by
  cases i with
  | powerOn dt r =>
    unfold exec execPowerOn at e
    exact rowEffect_timed e fun p => ⟨rfl, rfl⟩
  | powerOnSettled dt straps =>
    unfold exec execPowerOnSettled at e
    refine rowEffect_paced e fun p => ?_
    repeat' split
    · exact .same rfl rfl
    · exact .same rfl rfl
    all_goals exact .refl p
  | resetLineAsserted dt r =>
    unfold exec execResetLineAsserted at e
    exact rowEffect_timed e fun p => by split <;> exact ⟨rfl, rfl⟩
  | resetLineReleased dt straps =>
    unfold exec execResetLineReleased at e
    refine rowEffect_paced e fun p => ?_
    repeat' split
    · exact .same rfl rfl
    · exact .same rfl rfl
    all_goals exact .refl p
  | imageReadTimeout dt =>
    unfold exec execImageReadTimeout at e
    refine rowEffect_timed e fun p => onlyIf_timed (.inl rfl) fun h => p.judge_timed _ ?_
    simp only [Fc4.imagePending, Bool.and_eq_true, decide_eq_true_eq] at h; exact h.1.1.2
  | imageJudged dt image =>
    unfold exec execImageJudged at e
    refine rowEffect_timed e fun p => onlyIf_timed (.inl rfl) fun h => p.judge_timed _ ?_
    simp only [Fc4.imagePending, Bool.and_eq_true, decide_eq_true_eq] at h; exact h.1.1.1.2
  | stopWaitEnd dt =>
    unfold exec execStopWaitEnd at e
    refine rowEffect_timed e fun p => onlyIf_timed (.inl rfl) fun h => Fc4.preparationEnd_timed _ ?_
    simp only [Bool.and_eq_true, decide_eq_true_eq] at h; exact h.1.1.2
  | joinWindowEnd dt =>
    unfold exec execJoinWindowEnd at e
    refine rowEffect_timed e fun p => onlyIf_timed (.inl rfl) fun h => ⟨p.joinEnd_now, .inr ⟨?_, p.joinEnd_mode⟩⟩
    simp only [Bool.and_eq_true, decide_eq_true_eq] at h; exact h.1.2
  | offer dt rivals =>
    unfold exec execOffer at e
    exact rowEffect_paced e fun p => onlyIf_paced fun _ => p.offer_paced rivals
  | bitFault dt passed =>
    unfold exec execBitFault at e
    refine rowEffect_paced e fun p => onlyIf_paced fun _ => ?_
    have dropped : Paced p ({ p with link := p.link.dropFrame } : Fc4).flushRelease :=
      (Fc4.flushRelease_flow _).paced.after (.same rfl rfl)
    refine (Fc4.recheck_flow _).paced.after ((Fc4.closeCheck_flow _).paced.after ?_)
    split
    · exact ((Fc4.duplicate_paced _).after (Fc4.lineUsed_paced _)).after dropped
    · exact ((Fc4.countFailure_paced _).after (Fc4.trustNoPeer_paced _)).after dropped
  | checkFailure dt =>
    unfold exec execCheckFailure at e
    exact rowEffect_paced e fun p => onlyIf_paced fun _ => (Fc4.recheck_flow _).paced.after p.trustNoPeer_paced
  | ownCopyFail dt =>
    unfold exec execOwnCopyFail at e
    exact rowEffect_paced e fun p => onlyIf_paced fun _ =>
      (Fc4.recheck_flow _).paced.after ((Fc4.closeCheck_flow _).paced.after ((Fc4.countFailure_paced _).after
        ((Fc4.flushRelease_flow _).paced.after ((Fc4.lineUsed_paced _).after (.same rfl rfl)))))
  | claimGranted dt =>
    unfold exec execClaimGranted at e
    refine rowEffect_paced e fun p => ?_
    repeat' split
    · exact p.claimCompletes_paced _ _
    all_goals exact .refl p
  | releaseCompleted dt =>
    unfold exec execReleaseCompleted at e
    refine rowEffect_paced e fun p => ?_
    repeat' split
    · exact p.releaseCompletes_paced _
    all_goals exact .refl p
  | askSent dt =>
    unfold exec execAskSent at e
    refine rowEffect_paced e fun p => ?_
    split
    · exact (Fc4.recheck_flow _).paced.after ((Fc4.recordAskSent_paced _ _).after p.complete_paced)
    · exact .refl p
  | touchSent dt =>
    unfold exec execTouchSent at e
    refine rowEffect_paced e fun p => ?_
    split
    · exact (Fc4.recheck_flow _).paced.after p.complete_paced
    · exact .refl p
  | pairSent dt =>
    unfold exec execPairSent at e
    refine rowEffect_paced e fun p => ?_
    repeat' split
    · exact (Fc4.recheck_flow _).paced.after ((Fc4.pairCompletes_flow _ _).paced.after p.complete_paced)
    all_goals exact .refl p
  | beaconSent dt =>
    unfold exec execBeaconSent at e
    refine rowEffect_paced e fun p => ?_
    split
    · exact (Fc4.recheck_flow _).paced.after p.complete_paced
    · exact .refl p
  | statusSent dt =>
    unfold exec execStatusSent at e
    refine rowEffect_paced e fun p => ?_
    split
    · have emptied : Paced p.complete { p.complete with results := { p.results with refusals := [], overflow := 0 } } :=
        .same rfl rfl
      exact (Fc4.recheck_flow _).paced.after (emptied.after p.complete_paced)
    · exact .refl p
  | resultSent dt =>
    unfold exec execResultSent at e
    refine rowEffect_paced e fun p => ?_
    repeat' split
    · exact (Fc4.recheck_flow _).paced.after ((Fc4.resultsLeave_paced _ _).after p.complete_paced)
    all_goals exact .refl p
  | dupStationFrame dt =>
    unfold exec execDupStationFrame at e
    exact rowEffect_paced e fun p => onlyIf_paced fun _ =>
      (Fc4.recheck_flow _).paced.after ((Fc4.duplicate_paced _).after p.lineUsed_paced)
  | transmitterCutOff dt =>
    unfold exec execTransmitterCutOff at e
    exact rowEffect_paced e fun p => onlyIf_paced fun _ =>
      (Fc4.closeCheck_flow _).paced.after ((Fc4.cutOffMode_paced _).after
        ((Fc4.flushRelease_flow _).paced.after (.same rfl rfl)))
  | linkDownEntry dt =>
    unfold exec execLinkDownEntry at e
    exact rowEffect_paced e fun p => onlyIf_paced fun _ => .same rfl rfl
  | linkDownEnd line =>
    obtain ⟨dt, quiet⟩ := line
    unfold exec execLinkDownEnd at e
    exact rowEffect_paced e fun p => onlyIf_paced fun _ =>
      (Fc4.recheck_flow _).paced.after ((Fc4.trustNoPeer_paced _).after (.same rfl rfl))
  | beaconTimer dt =>
    unfold exec execBeaconTimer at e
    refine rowEffect_paced e fun p => ?_
    split
    · exact .same rfl rfl
    · exact .refl p
  | beaconReceived dt h b =>
    unfold exec execBeaconReceived at e
    exact heardRow_paced e fun p => (p.beaconHeard_flow _ _).paced
  | claimReceived dt h b =>
    unfold exec execClaimReceived at e
    exact heardRow_paced e fun p => .same rfl rfl
  | releaseReceived dt h b =>
    unfold exec execReleaseReceived at e
    exact heardRow_paced e fun p => (p.releaseHeard_flow _ _).paced
  | askReceived dt h target b =>
    unfold exec execAskReceived at e
    exact heardRow_paced e fun p => (p.askHeard_flow _ _ _).paced
  | touchReceived dt h b =>
    unfold exec execTouchReceived at e
    exact heardRow_paced e fun p => p.touchHeard_paced _ _
  | joinedReceived dt h target tag =>
    unfold exec execJoinedReceived at e
    exact heardRow_paced e fun p => (p.joinedHeard_flow _ _ _).paced
  | doneReceived dt h target tag =>
    unfold exec execDoneReceived at e
    exact heardRow_paced e fun p => (p.doneHeard_noted _ _ _).paced
  | abandonReceived dt h target reason tag =>
    unfold exec execAbandonReceived at e
    exact heardRow_paced e fun p => (p.abandonHeard_noted _ _ _).paced
  | statusHeard dt h =>
    unfold exec execStatusHeard at e
    exact heardRow_paced e Paced.refl
  | resultHeard dt h =>
    unfold exec execResultHeard at e
    exact heardRow_paced e Paced.refl
  | unassignedFrame dt h =>
    unfold exec execUnassignedFrame at e
    exact heardRow_paced e Paced.refl
  | invalidSenderFrame dt h =>
    unfold exec execInvalidSenderFrame at e
    exact heardRow_paced e Paced.refl
  | malformedFrame dt h =>
    unfold exec execMalformedFrame at e
    exact heardRow_paced e Paced.refl
  | peerSilence dt peer =>
    unfold exec execPeerSilence at e
    refine rowEffect_paced e fun p => ?_
    split
    · exact onlyIf_paced fun _ => (Fc4.recheck_flow _).paced.after
        ((Fc4.pairRecheck_flow _).paced.after (p.peerSilent_paced _ _))
    · exact .refl p
  | lineRestExpiry dt line =>
    unfold exec execLineRestExpiry at e
    exact rowEffect_paced e fun p => onlyIf_paced fun _ => .same rfl rfl
  | claimRecheckTimer dt =>
    unfold exec execClaimRecheckTimer at e
    exact rowEffect_paced e fun p => onlyIf_paced fun _ => (Fc4.recheck_flow _).paced.after (.same rfl rfl)
  | claimGiveUp dt =>
    unfold exec execClaimGiveUp at e
    refine rowEffect_paced e fun p => ?_
    split
    · exact (p.giveUp_flow _).paced
    · exact .refl p
  | yieldShadowExpiry dt asker =>
    unfold exec execYieldShadowExpiry at e
    exact rowEffect_paced e fun p => onlyIf_paced fun _ => (Fc4.recheck_flow _).paced.after
      (.same rfl rfl)
  | loadReceived dt target records =>
    unfold exec execLoadReceived at e
    refine sequencerRow_paced e fun p => ?_
    split
    · exact p.load_paced records
    · exact .refl p
  | moveCommand dt =>
    unfold exec execMoveCommand at e
    refine rowEffect_paced e fun p => ?_
    split
    · exact onlyIf_paced fun _ => .same rfl rfl
    · exact .refl p
  | axisReport dt a r =>
    unfold exec execAxisReport at e
    refine rowEffect_paced e fun p => ?_
    dsimp only
    split
    · exact (Fc4.axisFaulted_paced _).after (.same rfl rfl)
    · exact .same rfl rfl
  | moveEnd dt =>
    unfold exec execMoveEnd at e
    refine rowEffect_paced e fun p => ?_
    split
    · exact p.moveEnds_paced _
    · exact .refl p
  | carriageStopped dt =>
    unfold exec execCarriageStopped at e
    exact rowEffect_paced e fun p => onlyIf_paced fun _ => p.carriageStands_paced
  | descentBegin dt =>
    unfold exec execDescentBegin at e
    refine rowEffect_paced e fun p => ?_
    split
    · exact onlyIf_paced fun _ => .same rfl rfl
    · exact .refl p
  | fastTargetReached dt =>
    unfold exec execFastTargetReached at e
    refine rowEffect_paced e fun p => ?_
    split
    · exact .same rfl rfl
    · exact .refl p
  | touchdown dt =>
    unfold exec execTouchdown at e
    refine rowEffect_paced e fun p => ?_
    split
    · exact onlyIf_paced fun _ => (Fc4.afterTouchdown_paced _ _).after (.same rfl rfl)
    · exact .refl p
  | noContact dt =>
    unfold exec execNoContact at e
    refine rowEffect_paced e fun p => onlyIf_paced fun h => (p.failSearch_flow _ ?_).paced
    simp only [Bool.and_eq_true, decide_eq_true_eq] at h; simp [h.1.1]
  | contactLost dt =>
    unfold exec execContactLost at e
    exact rowEffect_paced e fun p => onlyIf_paced fun _ => (Fc4.failLanded_flow _ _).paced.after (.same rfl rfl)
  | overloadLatch dt current =>
    unfold exec execOverloadLatch at e
    refine rowEffect_paced e fun p => onlyIf_paced fun _ => ?_
    have latched : Paced p { p with motion := { p.motion with latch := true } } := .same rfl rfl
    dsimp only
    split
    · rename_i hz
      split
      · exact latched
      · exact (Fc4.failSearch_flow _ _ (by simp [hz])).paced.after latched
    · exact (Fc4.failLanded_flow _ _).paced.after latched
  | liftEnd dt =>
    unfold exec execLiftEnd at e
    exact rowEffect_paced e fun p => onlyIf_paced fun _ => p.liftEnded_paced
  | rendezvousTimeout dt =>
    unfold exec execRendezvousTimeout at e
    exact rowEffect_paced e fun p => onlyIf_paced fun _ => (p.endRendezvous_flow _ _).paced
  | converterSample dt code =>
    unfold exec execConverterSample at e
    exact rowEffect_paced e fun p => onlyIf_paced fun _ => .same rfl rfl
  | settleSampleA dt code =>
    unfold exec execSettleSampleA at e
    exact rowEffect_paced e fun p => onlyIf_paced fun _ => .same rfl rfl
  | settleCheck dt code =>
    unfold exec execSettleCheck at e
    exact rowEffect_paced e fun p => onlyIf_paced fun _ => .same rfl rfl
  | timingCrossing dt =>
    unfold exec execTimingCrossing at e
    exact rowEffect_paced e fun p => onlyIf_paced fun _ => .same rfl rfl
  | timingTimeout dt =>
    unfold exec execTimingTimeout at e
    exact rowEffect_paced e fun p => onlyIf_paced fun _ => .same rfl rfl
  | betweenDischargeEnd dt =>
    unfold exec execBetweenDischargeEnd at e
    exact rowEffect_paced e fun p => onlyIf_paced fun _ => .same rfl rfl
  | finalDischargeEnd dt =>
    unfold exec execFinalDischargeEnd at e
    exact rowEffect_paced e fun p => onlyIf_paced fun _ => p.finalDischargeOver_flow.paced
  | abortDischargeEnd dt =>
    unfold exec execAbortDischargeEnd at e
    exact rowEffect_paced e fun p => onlyIf_paced fun _ => p.abortEnded_flow.paced
  | resetDischargeEnd dt =>
    unfold exec execResetDischargeEnd at e
    exact rowEffect_paced e fun p => onlyIf_paced fun _ => p.resetDischarged_flow.paced
  | resultAgeTrigger dt =>
    unfold exec execResultAgeTrigger at e
    refine rowEffect_paced e fun p => ?_
    repeat' split
    · exact p.testPacking_flow.paced
    all_goals exact .refl p
  | halt dt target =>
    unfold exec execHalt at e
    refine sequencerRow_paced e fun p => ?_
    split
    · exact (p.enterStopped_flow .halt (by simp) ‹_›).paced
    · exact .refl p
  | start dt target =>
    unfold exec execStart at e
    refine commandRow_timed e (fun p => .inl rfl) fun p taken => ⟨(Fc4.testStart_flow _).now, .inr ⟨?_, ?_⟩⟩
    · simp only [Fc4.takesStart, resting, Bool.and_eq_true, Bool.or_eq_true, decide_eq_true_eq] at taken
      exact taken.1
    · rw [Fc4.testStart_ctl]; rfl
  | pause dt target =>
    unfold exec execPause at e
    refine commandRow_timed e (fun p => .inl rfl) fun p taken => ⟨?_, .inr ⟨of_decide_eq_true taken, ?_⟩⟩
    · exact ((Fc4.refreshWaiting_flow _).after (Fc4.pauseCheck_flow _)).now
    · exact p.pauseNow_mode
  | clear dt target =>
    unfold exec execClear at e
    refine sequencerRow_timed e fun p => ?_
    split
    · dsimp only
      split
      · exact ⟨p.clearStop_now, .inr ⟨Fc4.stopped_of_accepted ‹_›, rfl⟩⟩
      · exact ⟨rfl, .inl rfl⟩
    · exact ⟨rfl, .inl rfl⟩
  | purge dt target =>
    unfold exec execPurge at e
    exact commandRow_paced e fun p _ => (Fc4.refreshWaiting_flow _).paced.after (.same rfl rfl)
  | park dt target =>
    unfold exec execPark at e
    exact commandRow_paced e fun p _ => p.parkNow_flow.paced
  | query dt target =>
    unfold exec execQuery at e
    exact commandRow_paced e fun p _ => .refl p
  | reset dt target straps r =>
    unfold exec execReset at e
    refine rowEffect_timed e fun p => onlyIf_timed (.inl rfl) fun _ => ?_
    dsimp only
    repeat' split
    · exact ⟨(Fc4.recheck_flow _).now, .inl (by simp [Fc4.reportCommand])⟩
    · exact ⟨rfl, .inr rfl⟩
    · exact ⟨(Fc4.recheck_flow _).now, .inl (by simp)⟩
  | unknownCommand dt target code =>
    unfold exec execUnknownCommand at e
    exact sequencerRow_paced e Paced.refl
  | contactInputSample dt asserted =>
    unfold exec execContactInputSample at e
    exact rowEffect_paced e fun p => onlyIf_paced fun _ => .same rfl rfl

/-- A row is always taken: it leaves a state, and the queue as it was. -/
theorem exec_taken (i : Instr) (s : State) : ∃ t, exec i s = .next t ∧ t.pending = s.pending := by
  cases i <;> exact ⟨_, rfl, rfl⟩

/-- Settles O2. -/
theorem noRowStopsThePart : Obligations.NoRowStopsThePart := fun i s =>
  have ⟨t, taken, queue⟩ := exec_taken i s
  ⟨t, taken, queue, (exec_timed taken).1⟩

/-- Settles O3. -/
theorem modeChangesFollowTheRules : Obligations.ModeChangesFollowTheRules := fun _ _ _ e => (exec_timed e).2

/-! ### The follow-ups -/

/-- Settles O32: each of the follow-ups is a flow, and a flow leaves the steady part. -/
theorem followUpsLeaveTheRest : Obligations.FollowUpsLeaveTheRest := by
  intro p u member
  have flow : Flow p u := by
    simp only [List.mem_cons, List.not_mem_nil, or_false] at member
    rcases member with rfl | rfl | rfl | rfl | rfl | rfl | rfl | rfl | rfl | rfl | rfl | rfl | rfl | rfl | rfl
    · exact p.recheck_flow
    · exact p.closeCheck_flow
    · exact p.pairRecheck_flow
    · exact p.testStart_flow
    · exact p.afterTouch_flow
    · exact p.handOver_flow
    · exact p.flushRelease_flow
    · exact p.yieldIfReady_flow
    · exact p.parkProceeds_flow
    · exact p.dropLinesIfDone_flow
    · exact p.senseLines_flow
    · exact p.meet_flow
    · exact p.testPacking_flow
    · exact p.endAsk_flow
    · exact p.withdrawClaim_flow
  have steady := flow.steady
  simp only [Fc4.steady, Link.steady, Motion.steady, Results.steady, Ctl.steady, Prod.mk.injEq, Ctl.mk.injEq] at steady
  simp only [steady, and_self]

end Sys2Proof.Machine
end

section
/-! PROOF. Frames heard from heads: the record of the sender (O21, O22). -/

namespace Sys2Proof.Machine

/-! ### Rows and their conditions -/

theorem onlyIf_of_true {c : Bool} (f : Fc4 → Fc4) (s : Fc4) (h : c = true) : onlyIf c f s = f s := if_pos h

theorem onlyIf_of_false {c : Bool} (f : Fc4 → Fc4) (s : Fc4) (h : c = false) : onlyIf c f s = s := by simp [onlyIf, h]

/-- A row, by what its effect is on the part once its time has passed. -/
theorem rowEffect_of {dt : Time} {f : Fc4 → Fc4} {s : State} {u : Fc4} (h : f (s.part.elapse dt) = u) :
    rowEffect dt f s = .next { s with part := u } := h ▸ rfl

theorem heardRow_deaf {s : State} {dt : Time} {len : Nat} (deaf : (s.part.elapse dt).hears (frameTime len) = false)
    (h : Header) (wf b : Bool) (f : PeerRecord → PeerRecord) (c : Fc4 → Fc4) :
    heardRow dt len h wf b f c s = .next { s with part := s.part.elapse dt } :=
  rowEffect_of (onlyIf_of_false _ _ deaf)

theorem sequencerRow_deaf {s : State} {dt : Time} {len : Nat} (deaf : (s.part.elapse dt).hears (frameTime len) = false)
    (f : Fc4 → Fc4) : sequencerRow dt len f s = .next { s with part := s.part.elapse dt } :=
  rowEffect_of (onlyIf_of_false _ _ deaf)

theorem sequencerRow_heard {s : State} {dt : Time} {len : Nat} (heard : (s.part.elapse dt).hears (frameTime len) = true)
    (f : Fc4 → Fc4) : sequencerRow dt len f s = .next { s with part := (f (s.part.elapse dt).lineUsed).recheck } :=
  rowEffect_of (onlyIf_of_true _ _ heard)

/-- The part with the record of a heard frame's sender tracked. -/
def Fc4.tracked (p : Fc4) (h : Header) (isBeacon : Bool) (fields : PeerRecord → PeerRecord) : Fc4 :=
  { p with view := p.view.track h isBeacon fields p.now }

theorem Fc4.heardFrom_other (p : Fc4) {h : Header} (other : h.sender ≠ p.own) (head : h.sender ≠ 0) (b : Bool)
    (f : PeerRecord → PeerRecord) (c : Fc4 → Fc4) : p.heardFrom h b f c = (c (p.tracked h b f)).pairRecheck.recheck :=
  (if_neg other).trans (if_neg head)

theorem Fc4.heardFrom_noSender (p : Fc4) {h : Header} (other : h.sender ≠ p.own) (zero : h.sender = 0) (b : Bool)
    (f : PeerRecord → PeerRecord) (c : Fc4 → Fc4) : p.heardFrom h b f c = p.recheck :=
  (if_neg other).trans (if_pos zero)

/-- A well-formed frame heard from another head: its record, its consumer, and the tests after it. -/
theorem heardRow_heard {s : State} {dt : Time} {len : Nat} {h : Header}
    (heard : (s.part.elapse dt).hears (frameTime len) = true) (other : h.sender ≠ s.part.own) (head : h.sender ≠ 0)
    (b : Bool) (f : PeerRecord → PeerRecord) (c : Fc4 → Fc4) :
    heardRow dt len h true b f c s =
      .next { s with part := (c ((s.part.elapse dt).lineUsed.tracked h b f)).pairRecheck.recheck } := by
  refine rowEffect_of ?_
  rw [onlyIf_of_true _ _ heard, if_pos rfl]
  exact (s.part.elapse dt).lineUsed.heardFrom_other other head b f c

/-- A frame that is not well formed is tracked and goes to no consumer. -/
theorem heardRow_malformed {s : State} {dt : Time} {len : Nat} {h : Header}
    (heard : (s.part.elapse dt).hears (frameTime len) = true) (other : h.sender ≠ s.part.own) (head : h.sender ≠ 0)
    (b : Bool) (f : PeerRecord → PeerRecord) (c : Fc4 → Fc4) :
    heardRow dt len h false b f c s =
      .next { s with part := ((s.part.elapse dt).lineUsed.tracked h false noFields).pairRecheck.recheck } := by
  refine rowEffect_of ?_
  rw [onlyIf_of_true _ _ heard, if_neg (by simp)]
  exact (s.part.elapse dt).lineUsed.heardFrom_other other head false noFields id

/-- A frame with sender 0 that no head may send changes no record. -/
theorem heardRow_noSender {s : State} {dt : Time} {len : Nat} {h : Header}
    (heard : (s.part.elapse dt).hears (frameTime len) = true) (other : h.sender ≠ s.part.own) (zero : h.sender = 0)
    (wf b : Bool) (f : PeerRecord → PeerRecord) (c : Fc4 → Fc4) :
    heardRow dt len h wf b f c s = .next { s with part := (s.part.elapse dt).lineUsed.recheck } := by
  refine rowEffect_of ?_
  rw [onlyIf_of_true _ _ heard]
  cases wf
  · rw [if_neg (by simp)]; exact (s.part.elapse dt).lineUsed.heardFrom_noSender other zero false noFields id
  · rw [if_pos rfl]; exact (s.part.elapse dt).lineUsed.heardFrom_noSender other zero b f c

/-! ### The record of the sender -/

@[simp] theorem trackRecord_lastSeq (old : Option PeerRecord) (b : Bool) (seq : Seq) (now : Time) :
    (trackRecord old b seq now).lastSeq = seq := by cases old <;> rfl

@[simp] theorem trackRecord_lastHeard (old : Option PeerRecord) (b : Bool) (seq : Seq) (now : Time) :
    (trackRecord old b seq now).lastHeard = now := by cases old <;> rfl

@[simp] theorem trackRecord_frozen (old : Option PeerRecord) (b : Bool) (seq : Seq) (now : Time) :
    (trackRecord old b seq now).frozen = none := by cases old <;> rfl

/-- A BEACON makes its sender PRESENT where no frame of it was missed since it was heard (R22, R23). -/
theorem trackRecord_beacon_present {old : Option PeerRecord} {seq : Seq} (now : Time)
    (h : ∀ o, old = some o → o.presence = .silent ∨ seq = o.lastSeq + 1) :
    (trackRecord old true seq now).presence = .present := by
  cases old with
  | none => rfl
  | some o =>
    rcases h o rfl with h | h
    · simp [trackRecord, h]
    · cases hp : o.presence <;> simp [trackRecord, hp, h]

/-- Any frame leaves its sender UNSURE where one was missed. -/
theorem trackRecord_missed {o : PeerRecord} {seq : Seq} (b : Bool) (now : Time) (heard : o.presence ≠ .silent)
    (missed : seq ≠ o.lastSeq + 1) : (trackRecord (some o) b seq now).presence = .unsure := by
  cases hp : o.presence <;> simp_all [trackRecord]

/-- A frame that is no BEACON keeps its sender's presence where none was missed. -/
theorem trackRecord_follows {o : PeerRecord} {seq : Seq} (now : Time) (heard : o.presence ≠ .silent)
    (follows : seq = o.lastSeq + 1) : (trackRecord (some o) false seq now).presence = o.presence := by
  cases hp : o.presence <;> simp_all [trackRecord]

/-- A first frame that is no BEACON, or one after silence or a miss, leaves its sender UNSURE. -/
theorem trackRecord_unsure {old : Option PeerRecord} {seq : Seq} (now : Time)
    (h : ∀ o, old = some o → o.presence = .silent ∨ seq ≠ o.lastSeq + 1) :
    (trackRecord old false seq now).presence = .unsure := by
  cases old with
  | none => rfl
  | some o =>
    rcases h o rfl with h | h
    · simp [trackRecord, h]
    · cases hp : o.presence <;> simp [trackRecord, hp, h]

/-- The record of a station after a flow that left the Peer View. -/
theorem Fc4.record_of_view {p q : Fc4} (h : p.view = q.view) (peer : Station) : p.record peer = q.record peer := by
  unfold Fc4.record; rw [h]

/-- The sender's record after the tracking: the tracked one with the frame's fields. -/
theorem Fc4.tracked_record_self (p : Fc4) (h : Header) (b : Bool) (f : PeerRecord → PeerRecord) :
    (p.tracked h b f).record h.sender = some (f (trackRecord (p.record h.sender) b h.seq p.now)) :=
  tableGet_tablePut_self _ _ _

/-- No other record changes. -/
theorem Fc4.tracked_record_of_ne (p : Fc4) (h : Header) (b : Bool) (f : PeerRecord → PeerRecord) {peer : Station}
    (other : peer ≠ h.sender) : (p.tracked h b f).record peer = p.record peer :=
  tableGet_tablePut_of_ne (fun same => other (Fin.ext same)) _ _

/-- The fields of a frame that are no part of the tracking itself. -/
def BesideTracking (f : PeerRecord → PeerRecord) : Prop :=
  ∀ r, (f r).lastSeq = r.lastSeq ∧ (f r).lastHeard = r.lastHeard ∧ (f r).frozen = r.frozen ∧ (f r).presence = r.presence

/-- What the consumer of a frame leaves: all that a flow leaves, the notes aside, and for a TOUCH the heights. -/
def Consumes (isTouch : Prop) (c : Fc4 → Fc4) : Prop :=
  ∀ p, ∃ heights, Noted { p with heights } (c p) ∧ (¬ isTouch → heights = p.heights)

theorem Consumes.of_noted {isTouch : Prop} {c : Fc4 → Fc4} (h : ∀ p, Noted p (c p)) : Consumes isTouch c :=
  fun p => ⟨p.heights, h p, fun _ => rfl⟩

/-- Each row of a frame heard from a head is a `heardRow`: its fields are none of the tracking's, and its consumer leaves
what a flow leaves. -/
theorem exec_heardRow {dt : Time} {h : Header} {bb : BeaconBody} {cb : ClaimBody} {rb : ReleaseBody} {ab : AskBody}
    {tb : TouchBody} {target : Station} {tag reason : Nat} {row : Instr}
    (member : row ∈ [.beaconReceived dt h bb, .claimReceived dt h cb, .releaseReceived dt h rb, .askReceived dt h target ab,
      .touchReceived dt h tb, .joinedReceived dt h target tag, .doneReceived dt h target tag,
      .abandonReceived dt h target reason tag, .statusHeard dt h, .resultHeard dt h, .unassignedFrame dt h,
      .invalidSenderFrame dt h, .malformedFrame dt h]) :
    ∃ wf b f c, (∀ s, exec row s = heardRow dt (heardLength row) h wf b f c s) ∧ BesideTracking f ∧
      Consumes (row = .touchReceived dt h tb) c ∧
      ((wf && b) = true ↔ row = .beaconReceived dt h bb ∧ beaconOk bb = true) := by
  have fields : ∀ {g : PeerRecord → PeerRecord}, (∀ r, (g r).lastSeq = r.lastSeq ∧ (g r).lastHeard = r.lastHeard ∧
      (g r).frozen = r.frozen ∧ (g r).presence = r.presence) → BesideTracking g := id
  have plain : ∀ {isTouch : Prop}, Consumes isTouch id := .of_noted fun p => (Flow.refl p).noted
  simp only [List.mem_cons, List.not_mem_nil, or_false] at member
  rcases member with rfl | rfl | rfl | rfl | rfl | rfl | rfl | rfl | rfl | rfl | rfl | rfl | rfl
  · exact ⟨_, _, _, _, fun _ => rfl, fun _ => ⟨rfl, rfl, rfl, rfl⟩, .of_noted fun p => (p.beaconHeard_flow _ _).noted, by simp⟩
  · exact ⟨_, _, _, _, fun _ => rfl, fun _ => ⟨rfl, rfl, rfl, rfl⟩, .of_noted fun p => (p.claimHeard_flow _ _).noted, by simp⟩
  · exact ⟨_, _, _, _, fun _ => rfl, fun _ => ⟨rfl, rfl, rfl, rfl⟩, .of_noted fun p => (p.releaseHeard_flow _ _).noted, by simp⟩
  · exact ⟨_, _, _, _, fun _ => rfl, fun _ => ⟨rfl, rfl, rfl, rfl⟩, .of_noted fun p => (p.askHeard_flow _ _ _).noted, by simp⟩
  · refine ⟨_, _, _, _, fun _ => rfl, fun _ => ⟨rfl, rfl, rfl, rfl⟩, fun p => ?_, by simp⟩
    obtain ⟨heights, noted⟩ := p.touchHeard_noted h.sender tb
    exact ⟨heights, noted, fun other => absurd rfl other⟩
  · exact ⟨_, _, _, _, fun _ => rfl, fun _ => ⟨rfl, rfl, rfl, rfl⟩, .of_noted fun p => (p.joinedHeard_flow _ _ _).noted, by simp⟩
  · exact ⟨_, _, _, _, fun _ => rfl, fun _ => ⟨rfl, rfl, rfl, rfl⟩, .of_noted fun p => p.doneHeard_noted _ _ _, by simp⟩
  · exact ⟨_, _, _, _, fun _ => rfl, fun _ => ⟨rfl, rfl, rfl, rfl⟩, .of_noted fun p => p.abandonHeard_noted _ _ _, by simp⟩
  all_goals exact ⟨_, _, _, _, fun _ => rfl, fun _ => ⟨rfl, rfl, rfl, rfl⟩, plain, by simp⟩

/-- What a frame heard from another head leaves: the tracked record of its sender, and all else that a flow leaves. -/
theorem heardRow_tracks {s : State} {dt : Time} {len : Nat} {h : Header} {wf b : Bool} {f : PeerRecord → PeerRecord}
    {c : Fc4 → Fc4} {isTouch : Prop} (heard : (s.part.elapse dt).hears (frameTime len) = true)
    (other : h.sender ≠ s.part.own) (head : h.sender ≠ 0) (beside : BesideTracking f) (consumes : Consumes isTouch c) :
    ∃ t g heights notes, heardRow dt len h wf b f c s = .next t ∧ BesideTracking g ∧ (¬ isTouch → heights = s.part.heights) ∧
      let p := (s.part.elapse dt).lineUsed.tracked h (wf && b) g
      Flow { p with heights, pair := { p.pair with notes } } t.part := by
  have after : ∀ {p u : Fc4}, Flow p u → Flow p u.pairRecheck.recheck :=
    fun flow => (Fc4.recheck_flow _).after ((Fc4.pairRecheck_flow _).after flow)
  cases wf with
  | false =>
    exact ⟨_, noFields, s.part.heights, s.part.pair.notes, heardRow_malformed heard other head b f c,
      fun _ => ⟨rfl, rfl, rfl, rfl⟩, fun _ => rfl, after (.refl _)⟩
  | true =>
    obtain ⟨heights, ⟨notes, flow⟩, same⟩ := consumes ((s.part.elapse dt).lineUsed.tracked h b f)
    exact ⟨_, f, heights, notes, heardRow_heard heard other head b f c, beside, same, after flow⟩

/-- What a flow leaves that the Peer View's rows speak of. -/
theorem Flow.untold {s t : Fc4} (h : Flow s t) : t.view = s.view ∧ t.heights = s.heights ∧
    t.resv.heldBox = s.resv.heldBox ∧ t.resv.heldLines = s.resv.heldLines ∧ t.motion.ax = s.motion.ax ∧
    t.motion.ay = s.motion.ay ∧ t.results.refusals = s.results.refusals ∧ t.link.seq = s.link.seq := by
  have steady := h.steady
  simp only [Fc4.steady, Link.steady, Motion.steady, Results.steady, Prod.mk.injEq] at steady
  simp only [steady, and_self]

/-- When a frame is heard (R1, R5, R179), its length read in ticks. -/
theorem Fc4.hears_frame_iff (p : Fc4) (len : Nat) :
    p.hears (frameTime len) = true ↔ p.ctl.resetHold = none ∧ p.ctl.number ≠ 0 ∧ p.link.onLine = none ∧
      p.ctl.resetEnded + us 3 + 45 * (len + 5) ≤ p.now := by
  simp only [Fc4.hears, Fc4.hearing, Fc4.receiving, frameTime, idleTime, Bool.and_eq_true, Option.isNone_iff_eq_none,
    Bool.not_eq_true', decide_eq_false_iff_not, decide_eq_true_eq, and_assoc, Nat.mul_comm (len + 5) 45]

/-- Settles O21. -/
theorem heardFrameTracksItsSender : Obligations.HeardFrameTracksItsSender := by
  refine ⟨fun s dt h bb cb rb ab tb target tag reason row member other head => ?_,
    fun s dt target records straps reading code row len member deaf => ?_, fun p len => ⟨p.hears_frame_iff len, rfl⟩⟩
  · obtain ⟨wf, b, f, c, isRow, beside, consumes, isBeacon⟩ := exec_heardRow member
    refine ⟨fun deaf => (isRow s).trans (heardRow_deaf deaf h wf b f c), fun heard => ?_⟩
    obtain ⟨t, g, heights, notes, taken, beside, same, flow⟩ := heardRow_tracks heard other head beside consumes
    obtain ⟨view, heights', heldBox, heldLines, ax, ay, refusals, seq⟩ := flow.untold
    have own := (Fc4.record_of_view view h.sender).trans (Fc4.tracked_record_self _ h (wf && b) g)
    obtain ⟨lastSeq, lastHeard, frozen, presence⟩ := beside (trackRecord (s.part.record h.sender) (wf && b) h.seq (s.part.now + dt))
    refine ⟨t, _, (isRow s).trans taken, own, lastSeq.trans (trackRecord_lastSeq ..), lastHeard.trans (trackRecord_lastHeard ..),
      frozen.trans (trackRecord_frozen ..), fun peer ne => ?_, fun beacon => ?_, fun noBeacon => ?_, heldBox, heldLines,
      fun noTouch => heights'.trans (same noTouch), ax, ay, refusals, seq⟩
    · exact (Fc4.record_of_view view peer).trans (Fc4.tracked_record_of_ne _ h _ g ne)
    · rw [isBeacon.2 beacon] at presence
      refine ⟨fun follows => ?_, fun o old silent missed => ?_⟩
      · rw [isBeacon.2 beacon]
        exact presence.trans (trackRecord_beacon_present _ follows)
      · rw [isBeacon.2 beacon]
        exact presence.trans (old ▸ trackRecord_missed true _ silent missed)
    · have plain : (wf && b) = false := by simpa using fun h => noBeacon (isBeacon.1 h)
      rw [plain] at presence
      refine ⟨fun o old silent follows => ?_, fun missed => ?_⟩
      · rw [plain]; exact presence.trans (old ▸ trackRecord_follows _ silent follows)
      · rw [plain]; exact presence.trans (trackRecord_unsure _ missed)
  · simp only [List.mem_cons, List.not_mem_nil, or_false, Prod.mk.injEq] at member
    rcases member with ⟨rfl, rfl⟩ | ⟨rfl, rfl⟩ | ⟨rfl, rfl⟩ | ⟨rfl, rfl⟩ | ⟨rfl, rfl⟩ | ⟨rfl, rfl⟩ | ⟨rfl, rfl⟩ |
      ⟨rfl, rfl⟩ | ⟨rfl, rfl⟩ | ⟨rfl, rfl⟩ | ⟨rfl, rfl⟩
    · exact sequencerRow_deaf deaf _
    · exact sequencerRow_deaf deaf _
    · exact rowEffect_of (onlyIf_of_false _ _ deaf)
    · exact sequencerRow_deaf deaf _
    · exact sequencerRow_deaf deaf _
    · exact sequencerRow_deaf deaf _
    · exact sequencerRow_deaf deaf _
    · exact sequencerRow_deaf deaf _
    · exact sequencerRow_deaf deaf _
    · exact rowEffect_of (onlyIf_of_false _ _ deaf)
    · exact sequencerRow_deaf deaf _

/-! ### The fields of a frame, and the lines it drops -/

theorem restOf_setRest (r : LineRests) (l k : Line) (t : Option Time) :
    restOf (setRest r l t) k = if l = k then t else restOf r k := by
  cases l <;> cases k <;> rfl

/-- The lines dropped rest until `t`, and every other rest is as before. -/
theorem restOf_restLines (r : LineRests) (dropped : Line → Bool) (t : Time) (l : Line) :
    restOf (restLines r dropped t) l = if dropped l then some t else restOf r l := by
  have one : ∀ (r : LineRests) (k : Line),
      restOf (if dropped k then setRest r k (some t) else r) l = if dropped k ∧ k = l then some t else restOf r l := by
    intro r k
    by_cases hk : dropped k = true <;> simp [hk, restOf_setRest]
  simp only [restLines, allLines, List.foldl_cons, List.foldl_nil, one]
  cases l <;> simp

theorem Fc4.tracked_restOf (p : Fc4) (h : Header) (b : Bool) (f : PeerRecord → PeerRecord) (l : Line) :
    restOf (p.tracked h b f).view.rests l =
      if droppedBy (p.record h.sender) (f (trackRecord (p.record h.sender) b h.seq p.now)) l then some (p.now + us 200)
      else restOf p.view.rests l := restOf_restLines _ _ _ _

/-- The line leaves the held or the effective lines of the sender's record. -/
theorem droppedBy_eq_true {old : Option PeerRecord} {new : PeerRecord} {l : Line}
    (h : ∃ o, old = some o ∧ ((holdsLine o.lines l = true ∧ holdsLine new.lines l = false) ∨
      (l ∈ effectiveLines o ∧ l ∉ effectiveLines new))) : droppedBy old new l = true := by
  obtain ⟨o, rfl, ⟨held, left⟩ | ⟨held, left⟩⟩ := h
  · simp [droppedBy, held, left]
  · simp [droppedBy, held, left]

theorem droppedBy_eq_false {old : Option PeerRecord} {new : PeerRecord} {l : Line}
    (h : ∀ o, old = some o → (holdsLine o.lines l = true → holdsLine new.lines l = true) ∧
      (l ∈ effectiveLines o → l ∈ effectiveLines new)) : droppedBy old new l = false := by
  cases old with
  | none => rfl
  | some o =>
    obtain ⟨held, effective⟩ := h o rfl
    simp only [droppedBy, Bool.or_eq_false_iff, Bool.and_eq_false_imp, Bool.not_eq_false', decide_eq_true_eq]
    exact ⟨held, effective⟩

/-- A row after which the view is the tracked one: the record of the sender, and the rests. -/
theorem fields_taken {s : State} {dt : Time} {h : Header} {b : Bool} {f : PeerRecord → PeerRecord} {row : Instr}
    {new : PeerRecord}
    (taken : ∃ t, exec row s = .next t ∧ t.part.view = ((s.part.elapse dt).lineUsed.tracked h b f).view)
    (isNew : f (trackRecord (s.part.record h.sender) b h.seq (s.part.now + dt)) = new) :
    ∃ t, exec row s = .next t ∧ t.part.record h.sender = some new ∧
      ∀ l,
        ((∃ o, s.part.record h.sender = some o ∧
            ((holdsLine o.lines l = true ∧ holdsLine new.lines l = false) ∨ (l ∈ effectiveLines o ∧ l ∉ effectiveLines new))) →
          restOf t.part.view.rests l = some (s.part.now + dt + us 200)) ∧
        ((∀ o, s.part.record h.sender = some o →
            (holdsLine o.lines l = true → holdsLine new.lines l = true) ∧ (l ∈ effectiveLines o → l ∈ effectiveLines new)) →
          restOf t.part.view.rests l = restOf s.part.view.rests l) := by
  subst isNew
  obtain ⟨t, taken, view⟩ := taken
  have rests := fun l => (s.part.elapse dt).lineUsed.tracked_restOf h b f l
  refine ⟨t, taken, (Fc4.record_of_view view h.sender).trans (Fc4.tracked_record_self _ h b f),
    fun l => ⟨fun dropped => ?_, fun kept => ?_⟩⟩
  · rw [view]; exact (rests l).trans (if_pos (droppedBy_eq_true dropped))
  · rw [view]; exact (rests l).trans (if_neg (by rw [Bool.not_eq_true]; exact droppedBy_eq_false kept))

theorem Noted.view {s t : Fc4} (h : Noted s t) : t.view = s.view := by
  obtain ⟨_, flow⟩ := h
  exact flow.untold.1

theorem Fc4.heardTests_flow (s : Fc4) : Flow s s.pairRecheck.recheck := (Fc4.recheck_flow _).after s.pairRecheck_flow

/-- The view after a well-formed frame is the tracked one, where its consumer leaves the view. -/
theorem heardRow_view {s : State} {dt : Time} {len : Nat} {h : Header}
    (heard : (s.part.elapse dt).hears (frameTime len) = true) (other : h.sender ≠ s.part.own) (head : h.sender ≠ 0)
    (b : Bool) (f : PeerRecord → PeerRecord) {c : Fc4 → Fc4} (consumes : ∀ p, (c p).view = p.view) {wf : Bool}
    (isWf : wf = true) :
    ∃ t, heardRow dt len h wf b f c s = .next t ∧ t.part.view = ((s.part.elapse dt).lineUsed.tracked h b f).view := by
  subst isWf
  exact ⟨_, heardRow_heard heard other head b f c, (Fc4.heardTests_flow _).untold.1.trans (consumes _)⟩

theorem Box.ordered_of_wf {b : Box} (h : b.wf = true) : boxOrdered b = true := by
  simp only [Box.wf, Bool.and_eq_true] at h; exact h.1.1

theorem optionBox_ordered_of_wf {b : Option Box} (h : (b.map Box.wf).getD true = true) :
    (b.map boxOrdered).getD true = true := by
  cases b with
  | none => rfl
  | some b => exact Box.ordered_of_wf h

theorem beaconOk_of_wf {b : BeaconBody} (h : b.wf = true) : beaconOk b = true := by
  simp only [BeaconBody.wf, Bool.and_eq_true] at h
  simp only [beaconOk, Bool.and_eq_true]
  obtain ⟨⟨⟨⟨⟨⟨⟨mode, reach⟩, held⟩, lines⟩, -⟩, -⟩, -⟩, -⟩ := h
  exact ⟨⟨⟨mode, optionBox_ordered_of_wf reach⟩, optionBox_ordered_of_wf held⟩, lines⟩

theorem claimOk_of_wf {b : ClaimBody} (h : b.wf = true) : (boxOrdered b.box && rolesDistinct b.lines) = true := by
  simp only [ClaimBody.wf, Bool.and_eq_true] at h
  simp only [Bool.and_eq_true]
  exact ⟨Box.ordered_of_wf h.1.1, h.1.2⟩

theorem releaseOk_of_wf {b : ReleaseBody} (h : b.wf = true) : (boxOrdered b.box && rolesDistinct b.lines) = true := by
  simp only [ReleaseBody.wf, Bool.and_eq_true] at h
  simp only [Bool.and_eq_true]
  exact ⟨Box.ordered_of_wf h.1.1, h.1.2⟩

/-- Settles O22: every row's record is the tracked one with the row's own fields. -/
theorem heardFieldsAreTakenAndLinesRest : Obligations.HeardFieldsAreTakenAndLinesRest := by
  intro s dt h bb cb rb ab tb target tag reason row new r0 which heard other head
  have touch : ∀ p : Fc4, (p.touchHeard h.sender tb).view = p.view := fun p =>
    have ⟨_, noted⟩ := p.touchHeard_noted h.sender tb
    noted.view
  rcases which with ⟨rfl, wf, rfl⟩ | ⟨rfl, wf, rfl⟩ | ⟨rfl, wf, rfl⟩ | ⟨rfl, wf, rfl⟩ | ⟨rfl, rfl⟩ | ⟨rfl | rfl, rfl⟩ |
    ⟨member, rfl⟩
  · exact fields_taken (heardRow_view heard other head true (beaconFields bb)
      (fun p => (p.beaconHeard_flow h.sender bb).untold.1) (beaconOk_of_wf wf)) (by simp only [r0, decide_true]; rfl)
  · exact fields_taken (heardRow_view heard other head false (claimFields cb)
      (fun p => (p.claimHeard_flow h.sender cb).untold.1) (claimOk_of_wf wf)) rfl
  · exact fields_taken (heardRow_view heard other head false (releaseFields rb)
      (fun p => (p.releaseHeard_flow h.sender rb).untold.1) (releaseOk_of_wf wf)) rfl
  · exact fields_taken (heardRow_view heard other head false (askFields ab)
      (fun p => (p.askHeard_flow h.sender target ab.box).untold.1) (Box.ordered_of_wf wf)) rfl
  · exact fields_taken (heardRow_view heard other head false (touchFields tb) touch rfl) rfl
  · exact fields_taken (heardRow_view heard other head false unlandedFields
      (fun p => (p.doneHeard_noted h.sender target tag).view) rfl) rfl
  · exact fields_taken (heardRow_view heard other head false unlandedFields
      (fun p => (p.abandonHeard_noted h.sender target tag).view) rfl) rfl
  · simp only [List.mem_cons, List.not_mem_nil, or_false] at member
    rcases member with rfl | rfl | rfl | rfl | rfl | rfl
    · exact fields_taken (heardRow_view heard other head false noFields
        (fun p => (p.joinedHeard_flow h.sender target tag).untold.1) rfl) rfl
    · exact fields_taken (heardRow_view heard other head false noFields (fun p => rfl) rfl) rfl
    · exact fields_taken (heardRow_view heard other head false noFields (fun p => rfl) rfl) rfl
    · exact fields_taken (heardRow_view heard other head false noFields (fun p => rfl) rfl) rfl
    · exact fields_taken (heardRow_view heard other head false noFields (fun p => rfl) rfl) rfl
    · exact fields_taken ⟨_, heardRow_malformed heard other head false noFields id, (Fc4.heardTests_flow _).untold.1⟩ rfl

end Sys2Proof.Machine
end

section
/-! PROOF. What a frame heard from a head does beyond its sender's record: the consumers of chapters 03 and 05 (O23, O24,
O26). -/

namespace Sys2Proof.Machine

/-! ### BEACON, CLAIM and the frames without a consumer -/

theorem Fc4.beaconHeard_ends {p : Fc4} {sender : Station} {b : BeaconBody}
    (h : ∃ a, p.resv.ask = some a ∧ a.target = sender ∧ a.sent.isSome = true ∧ (b.mode = .stopped ∨ b.mode = .cfgFault)) :
    p.beaconHeard sender b = p.endAsk := by
  obtain ⟨a, ask, ends⟩ := h
  simp only [Fc4.beaconHeard, ask]
  exact if_pos ends

theorem Fc4.beaconHeard_keeps_ask {p : Fc4} {sender : Station} {b : BeaconBody}
    (h : ¬ ∃ a, p.resv.ask = some a ∧ a.target = sender ∧ a.sent.isSome = true ∧ (b.mode = .stopped ∨ b.mode = .cfgFault)) :
    p.beaconHeard sender b = p := by
  unfold Fc4.beaconHeard
  split
  · rename_i a ask
    exact if_neg fun ends => h ⟨a, ask, ends⟩
  · rfl

/-- A well-formed frame heard from another head, by what its consumer does. -/
theorem heardRow_becomes {s : State} {dt : Time} {len : Nat} {h : Header}
    (heard : (s.part.elapse dt).hears (frameTime len) = true) (other : h.sender ≠ s.part.own) (head : h.sender ≠ 0)
    {wf : Bool} (isWf : wf = true) {b : Bool} {f : PeerRecord → PeerRecord} {c : Fc4 → Fc4} {u : Fc4}
    (consumed : c ((s.part.elapse dt).lineUsed.tracked h b f) = u) :
    heardRow dt len h wf b f c s = .next { s with part := u.pairRecheck.recheck } := by
  subst isWf consumed
  exact heardRow_heard heard other head b f c

/-- Settles O23. -/
theorem heardFramesReachTheirConsumer : Obligations.HeardFramesReachTheirConsumer := by
  intro s dt h other p q becomes
  refine ⟨fun head => ⟨fun heard => ?_, fun heard => ?_, fun heard => ?_, fun heard => ?_, fun heard => ?_, ?_, ?_⟩,
    fun zero => ⟨fun heard => ?_, fun heard => ?_, fun heard => ?_⟩⟩
  · exact heardRow_becomes heard other head rfl rfl
  · exact heardRow_becomes heard other head rfl rfl
  · exact heardRow_becomes heard other head rfl rfl
  · exact heardRow_becomes heard other head rfl rfl
  · exact heardRow_malformed heard other head false noFields id
  · intro b wf u kept heard
    exact heardRow_becomes heard other head (claimOk_of_wf wf) rfl
  · intro b wf u ends
    refine ⟨fun does heard => ?_, fun stays heard => ?_⟩
    · exact heardRow_becomes heard other head (beaconOk_of_wf wf) (Fc4.beaconHeard_ends does)
    · exact heardRow_becomes heard other head (beaconOk_of_wf wf) (Fc4.beaconHeard_keeps_ask stays)
  · exact heardRow_noSender heard other zero _ _ _ _
  · exact heardRow_noSender heard other zero _ _ _ _
  · exact heardRow_noSender heard other zero _ _ _ _

/-! ### RELEASE -/

theorem Fc4.releaseHeard_of_asked {p : Fc4} {sender : Station} (asked : p.resv.ask.map Ask.target = some sender)
    (b : ReleaseBody) : p.releaseHeard sender b =
      if b.atHaven then p.endAsk.havenAnswer sender else if b.answerTo = p.own.val then p.endAsk else p := by
  obtain ⟨a, ask, target⟩ := Option.map_eq_some_iff.1 asked
  simp only [Fc4.releaseHeard, ask]
  exact if_pos target

theorem Fc4.releaseHeard_of_unasked {p : Fc4} {sender : Station} (unasked : p.resv.ask.map Ask.target ≠ some sender)
    (b : ReleaseBody) : p.releaseHeard sender b = p := by
  unfold Fc4.releaseHeard
  split
  · rename_i a ask
    exact if_neg fun target => unasked (by simp [ask, target])
  · rfl

@[simp] theorem Fc4.endAsk_claim (p : Fc4) : p.endAsk.resv.claim = p.resv.claim := by
  unfold Fc4.endAsk; split <;> rfl

theorem Fc4.havenAnswer_overlaps {p : Fc4} {sender : Station} {c : Claim} {r : PeerRecord} (claim : p.resv.claim = some c)
    (record : p.record sender = some r) (overlaps : overlapsRecord p.ctl.side c.box r = true) :
    p.havenAnswer sender = p.giveUp c := by
  simp only [Fc4.havenAnswer, claim, record]
  exact if_pos overlaps

theorem Fc4.havenAnswer_clear {p : Fc4} {sender : Station} (h : ∀ c r, p.resv.claim = some c → p.record sender = some r →
    overlapsRecord p.ctl.side c.box r = false) : p.havenAnswer sender = p := by
  unfold Fc4.havenAnswer
  split
  · rename_i c r claim record
    exact if_neg (by simp [h c r claim record])
  · rfl

/-- Settles O24. -/
theorem releaseHeardAnswersTheAsk : Obligations.ReleaseHeardAnswersTheAsk := by
  intro s dt h b heard other head wf p u asked
  have becomes : ∀ v, u.releaseHeard h.sender b = v →
      exec (.releaseReceived dt h b) s = .next { s with part := v.pairRecheck.recheck } :=
    fun v consumed => heardRow_becomes heard other head (releaseOk_of_wf wf) consumed
  refine ⟨fun isAsked haven => ⟨fun c r claim record overlaps => ?_, fun clear => ?_⟩, fun isAsked away answers => ?_,
    fun not => ?_⟩
  · refine becomes _ ((u.releaseHeard_of_asked isAsked b).trans ?_)
    rw [if_pos haven]
    exact Fc4.havenAnswer_overlaps ((u.endAsk_claim).trans claim) ((Fc4.record_of_view u.endAsk_view _).trans record)
      (u.endAsk_ctl ▸ overlaps)
  · refine becomes _ ((u.releaseHeard_of_asked isAsked b).trans ?_)
    rw [if_pos haven]
    refine Fc4.havenAnswer_clear fun c r claim record => ?_
    rw [Fc4.endAsk_ctl]
    exact clear c r ((u.endAsk_claim).symm.trans claim) ((Fc4.record_of_view u.endAsk_view _).symm.trans record)
  · refine becomes _ ((u.releaseHeard_of_asked isAsked b).trans ?_)
    rw [if_neg (by simp [away])]
    exact if_pos answers
  · refine becomes _ ?_
    by_cases isAsked : asked
    · obtain ⟨away, noAnswer⟩ := not.resolve_left (not_not_intro isAsked)
      rw [u.releaseHeard_of_asked isAsked b, if_neg (by simp [away])]
      exact if_neg noAnswer
    · exact u.releaseHeard_of_unasked isAsked b

/-! ### TOUCH -/

/-- The samples the Height Table takes from another head (R134). -/
theorem Fc4.takesPeerSample_iff (p : Fc4) (b : TouchBody) : p.takesPeerSample b = true ↔
    b.side = p.ctl.side ∧ b.height ≤ 40000 ∧ b.pad.x ≤ 1048575 ∧ b.pad.y ≤ 1048575 ∧ p.ctl.mode ≠ .starting := by
  simp only [Fc4.takesPeerSample, Bool.and_eq_true, decide_eq_true_eq, Bool.not_eq_true', decide_eq_false_iff_not,
    and_assoc]
  exact Iff.rfl

theorem lateMismatch_iff (r : Rendezvous) (sender : Station) (b : TouchBody) : lateMismatch r sender b = true ↔
    r.partner = sender ∧ b.tag = r.tag ∧ b.role = some r.role ∧ r.roleChecked = false ∧
      (r.state = .linking ∨ r.state = .joinedWait) := by
  simp [lateMismatch, and_assoc]

/-- The note and the sample of a TOUCH. -/
def Fc4.touchNoted (p : Fc4) (sender : Station) (b : TouchBody) : Fc4 :=
  { p with
    pair := { p.pair with notes :=
      if b.tag = 0 then tableDrop sender.val p.pair.notes else tablePut sender.val ⟨b.tag, b.role⟩ p.pair.notes }
    heights :=
      if b.side = p.ctl.side ∧ b.height ≤ 40000 ∧ b.pad.x ≤ 1048575 ∧ b.pad.y ≤ 1048575 ∧ p.ctl.mode ≠ .starting then
        takeSample p.heights b.pad b.height
      else p.heights }

theorem Fc4.peerSample_noted (p : Fc4) (sender : Station) (b : TouchBody) :
    ({ p with pair := { p.pair with notes := noteTouch p.pair.notes sender.val b } } : Fc4).peerSample b =
      p.touchNoted sender b := by
  unfold Fc4.peerSample Fc4.touchNoted
  split
  · rename_i takes
    rw [if_pos ((p.takesPeerSample_iff b).1 takes)]; rfl
  · rename_i takes
    rw [if_neg fun h => takes ((p.takesPeerSample_iff b).2 h)]; rfl

theorem Fc4.touchHeard_eq (p : Fc4) (sender : Station) (b : TouchBody) : p.touchHeard sender b =
    match p.pair.rdv with
    | some r => if lateMismatch r sender b then (p.touchNoted sender b).endRendezvous .mismatch false
      else p.touchNoted sender b
    | none => p.touchNoted sender b := by
  unfold Fc4.touchHeard
  rw [p.peerSample_noted sender b]
  rfl

/-- Settles O26. -/
theorem touchHeardIsNotedAndSampled : Obligations.TouchHeardIsNotedAndSampled := by
  intro s dt h b heard other head p u late
  have becomes : ∀ v, ((p.tracked h false (touchFields b)).touchHeard h.sender b) = v →
      exec (.touchReceived dt h b) s = .next { s with part := v.pairRecheck.recheck } :=
    fun v consumed => heardRow_becomes heard other head rfl consumed
  refine ⟨fun ⟨r, opened, isLate⟩ => becomes _ ?_, fun notLate => becomes _ ?_⟩
  · rw [Fc4.touchHeard_eq]
    simp only [Fc4.tracked, opened]
    exact if_pos ((lateMismatch_iff r h.sender b).2 isLate)
  · rw [Fc4.touchHeard_eq]
    cases opened : p.pair.rdv with
    | none => simp only [Fc4.tracked, opened]; rfl
    | some r =>
      simp only [Fc4.tracked, opened]
      exact if_neg fun isLate => notLate ⟨r, opened, (lateMismatch_iff r h.sender b).1 isLate⟩

end Sys2Proof.Machine
end

section
/-! PROOF. JOINED, DONE and ABANDON heard (O27). -/

namespace Sys2Proof.Machine

/-! ### Records changed where they stand -/

theorem Fc4.mapRdv_of_some {p : Fc4} {r : Rendezvous} (h : p.pair.rdv = some r) (f : Rendezvous → Rendezvous) :
    p.mapRdv f = { p with pair := { p.pair with rdv := some (f r) } } := by simp [Fc4.mapRdv, h]

theorem Fc4.mapTouch_of_some {p : Fc4} {t : TouchRecord} (h : p.work.touch = some t) (f : TouchRecord → TouchRecord) :
    p.mapTouch f = { p with work := { p.work with touch := some (f t) } } := by simp [Fc4.mapTouch, h]

/-! ### The rendezvous a frame is aimed at -/

theorem Fc4.aimedRdv_eq_some_iff {p : Fc4} {target : Station} {tag : Nat} {r : Rendezvous} :
    p.aimedRdv target tag = some r ↔ target = p.own ∧ p.pair.rdv = some r ∧ r.tag = tag := by
  unfold Fc4.aimedRdv
  split
  · rename_i aimed
    simp [aimed, Option.filter_eq_some_iff]
  · rename_i elsewhere
    simp [elsewhere]

theorem Fc4.aimedRdv_eq_none {p : Fc4} {target : Station} {tag : Nat}
    (h : ∀ r, p.pair.rdv = some r → target = p.own → r.tag ≠ tag) : p.aimedRdv target tag = none := by
  rw [Option.eq_none_iff_forall_ne_some]
  intro r aimed
  obtain ⟨isOwn, opened, same⟩ := Fc4.aimedRdv_eq_some_iff.1 aimed
  exact h r opened isOwn same

/-! ### JOINED -/

theorem Fc4.joinedHeard_of_meant {p : Fc4} {sender target : Station} {tag : Nat} {r : Rendezvous}
    (aimed : p.aimedRdv target tag = some r) (partner : r.partner = sender) (role : r.role = .source) :
    p.joinedHeard sender target tag =
      match r.state with
      | .heading | .landedWait | .linking => p.mapRdv (fun r => { r with joinedHeard := true })
      | .joinedWait => p.startMeasuring
      | _ => p := by
  simp only [Fc4.joinedHeard, aimed]
  exact if_pos ⟨partner, role⟩

theorem Fc4.joinedHeard_of_not_meant {p : Fc4} {sender target : Station} {tag : Nat}
    (h : ∀ r, p.aimedRdv target tag = some r → ¬ (r.partner = sender ∧ r.role = .source)) :
    p.joinedHeard sender target tag = p := by
  unfold Fc4.joinedHeard
  split
  · exact if_neg (h _ ‹_›)
  · rfl

/-! ### DONE -/

theorem Fc4.doneHeard_of_meant {p : Fc4} {sender target : Station} {tag : Nat} {r : Rendezvous}
    (aimed : (p.dropNote sender).aimedRdv target tag = some r) (partner : r.partner = sender) (role : r.role = .sense) :
    p.doneHeard sender target tag =
      match r.state with
      | .holding => (p.dropNote sender).sensed
      | .heading | .landedWait | .linking => (p.dropNote sender).endRendezvous .partnerAbandoned true
      | _ => p.dropNote sender := by
  simp only [Fc4.doneHeard, aimed]
  exact if_pos ⟨partner, role⟩

theorem Fc4.doneHeard_of_not_meant {p : Fc4} {sender target : Station} {tag : Nat}
    (h : ∀ r, (p.dropNote sender).aimedRdv target tag = some r → ¬ (r.partner = sender ∧ r.role = .sense)) :
    p.doneHeard sender target tag = p.dropNote sender := by
  unfold Fc4.doneHeard
  dsimp only
  split
  · exact if_neg (h _ ‹_›)
  · rfl

/-! ### ABANDON -/

theorem Fc4.abandonHeard_of_aimed {p : Fc4} {sender target : Station} {tag : Nat} {r : Rendezvous}
    (aimed : (p.dropNote sender).aimedRdv target tag = some r) : p.abandonHeard sender target tag =
      if r.partner = sender ∧ r.state ≠ .finishing then (p.dropNote sender).endRendezvous .partnerAbandoned true
      else p.dropNote sender := by
  obtain ⟨isOwn, -, -⟩ := Fc4.aimedRdv_eq_some_iff.1 aimed
  simp only [Fc4.abandonHeard, aimed]
  exact if_pos isOwn

theorem Fc4.abandonHeard_of_not_open {p : Fc4} {sender target : Station} {tag : Nat} (isOwn : target = p.own)
    (none_ : (p.dropNote sender).aimedRdv target tag = none) :
    p.abandonHeard sender target tag = (p.dropNote sender).removeAbandoned sender tag := by
  simp only [Fc4.abandonHeard, none_]
  exact if_pos isOwn

theorem Fc4.abandonHeard_elsewhere {p : Fc4} {sender target : Station} {tag : Nat} (elsewhere : target ≠ p.own) :
    p.abandonHeard sender target tag = p.dropNote sender := if_neg elsewhere

/-! ### The start of a measurement, and the end of a SENSE -/

theorem Fc4.startMeasuring_starts {p : Fc4} {e : Entry} {r : Rendezvous} (active : p.activeEntry = some e)
    (opened : p.pair.rdv = some r) (landed : p.motion.zState = .landed) (idle : p.meas.state = .idle) :
    p.startMeasuring = { p with
      meas := p.meas.begin .pairUnit ⟨e.kind, e.low, e.high, e.hint⟩ p.now
      pair := { p.pair with rdv := some { r with state := .measuring, timer := none } } } := by
  have can : p.canMeasure = true := by simp [Fc4.canMeasure, landed, idle]
  simp only [Fc4.startMeasuring, active, can]
  exact Fc4.mapRdv_of_some (p := p.beginFor .pairUnit e) opened _

theorem Fc4.startMeasuring_waits {p : Fc4} {r : Rendezvous} (opened : p.pair.rdv = some r)
    (h : p.activeEntry = none ∨ p.motion.zState ≠ .landed ∨ p.meas.state ≠ .idle) :
    p.startMeasuring = { p with pair := { p.pair with rdv := some { r with joinedHeard := true } } } := by
  have kept : p.startMeasuring = p.mapRdv (fun r => { r with joinedHeard := true }) := by
    unfold Fc4.startMeasuring
    split
    · rename_i active can
      simp only [Fc4.canMeasure, Bool.and_eq_true, decide_eq_true_eq] at can
      rcases h with h | h | h
      · simp [h] at active
      · exact absurd can.1 h
      · exact absurd can.2 h
    · rfl
  exact kept.trans (Fc4.mapRdv_of_some opened _)

/-- A SENSE that is done, with the unit IDLE and the touch still landed, lifts at once (R98). -/
theorem Fc4.sensed_landed {p : Fc4} {r : Rendezvous} {t : TouchRecord} (opened : p.pair.rdv = some r)
    (touch : p.work.touch = some t) (stage : t.stage = .measure) (idle : p.meas.state = .idle)
    (landed : p.motion.zState = .landed) :
    p.sensed = { p with
      link := p.link.withdrawPair
      meas := { p.meas with forceSw := none, retSw := none, senseSw := none }
      pair := { p.pair with rdv := some { r with
        outcome := some .sensed, timer := none, quiet := true, state := .finishing, connected := false } }
      work := { p.work with touch := some { t with outcome := some .sensed, stage := .lift } }
      motion := { p.motion with zState := .lifting, descent := none, handed := none, liftWanted := false } } := by
  simp [Fc4.sensed, Fc4.setOutcome, Fc4.mapRdv, Fc4.mapTouch, Fc4.breakLines, Fc4.noteSwitches, Fc4.liftIfFree,
    Fc4.goLift, Fc4.beginLift, Motion.lift, Meas.openLines, opened, touch, stage, idle, landed]

/-! ### The rows -/

/-- A row of a PAIR frame, by what its consumer makes of the tracked part. -/
theorem pairRow_becomes {s : State} {dt : Time} {h : Header} (heard : (s.part.elapse dt).hears (frameTime 4) = true)
    (other : h.sender ≠ s.part.own) (head : h.sender ≠ 0) {f : PeerRecord → PeerRecord} {c : Fc4 → Fc4} {u : Fc4}
    (consumed : c ((s.part.elapse dt).lineUsed.tracked h false f) = u) :
    heardRow dt 4 h true false f c s = .next { s with part := u.pairRecheck.recheck } :=
  heardRow_becomes heard other head rfl consumed

/-- Settles O27. -/
theorem pairFramesReachTheRendezvous : Obligations.PairFramesReachTheRendezvous := by
  refine ⟨?_, fun q => ⟨fun e r => Fc4.startMeasuring_starts, fun r => Fc4.startMeasuring_waits⟩,
    fun q r t => Fc4.sensed_landed⟩
  intro s dt h target reason tag heard other head p q u opened meant joined done abandon
  have joinedIs : ∀ {v}, q.joinedHeard h.sender target tag = v → joined = .next { s with part := v.pairRecheck.recheck } :=
    pairRow_becomes (c := fun p => p.joinedHeard h.sender target tag) heard other head
  have doneIs : ∀ {v}, (p.tracked h false unlandedFields).doneHeard h.sender target tag = v →
      done = .next { s with part := v.pairRecheck.recheck } :=
    pairRow_becomes (c := fun p => p.doneHeard h.sender target tag) heard other head
  have abandonIs : ∀ {v}, (p.tracked h false unlandedFields).abandonHeard h.sender target tag = v →
      abandon = .next { s with part := v.pairRecheck.recheck } :=
    pairRow_becomes (c := fun p => p.abandonHeard h.sender target tag) heard other head
  have aimedQ : ∀ {r}, p.pair.rdv = some r → opened r → q.aimedRdv target tag = some r :=
    fun isOpen ⟨isOwn, same⟩ => Fc4.aimedRdv_eq_some_iff.2 ⟨isOwn, isOpen, same⟩
  have aimedU : ∀ {r}, p.pair.rdv = some r → opened r → u.aimedRdv target tag = some r :=
    fun isOpen ⟨isOwn, same⟩ => Fc4.aimedRdv_eq_some_iff.2 ⟨isOwn, isOpen, same⟩
  have openedU : ∀ {r}, u.aimedRdv target tag = some r → p.pair.rdv = some r ∧ opened r := fun aimed =>
    have ⟨isOwn, isOpen, same⟩ := Fc4.aimedRdv_eq_some_iff.1 aimed
    ⟨isOpen, isOwn, same⟩
  have openedQ : ∀ {r}, q.aimedRdv target tag = some r → p.pair.rdv = some r ∧ opened r := fun aimed =>
    have ⟨isOwn, isOpen, same⟩ := Fc4.aimedRdv_eq_some_iff.1 aimed
    ⟨isOpen, isOwn, same⟩
  refine ⟨?_, ?_, ?_, ?_, ?_, ?_, ?_, ?_, ?_⟩
  · intro r isOpen ⟨isAimed, partner, role⟩ state
    exact joinedIs (by rw [Fc4.joinedHeard_of_meant (aimedQ isOpen isAimed) partner role, state])
  · intro r isOpen ⟨isAimed, partner, role⟩ state
    have kept := Fc4.mapRdv_of_some (p := q) isOpen (fun r => { r with joinedHeard := true })
    refine joinedIs (Eq.trans ?_ kept)
    rw [Fc4.joinedHeard_of_meant (aimedQ isOpen isAimed) partner role]
    simp only [List.mem_cons, List.not_mem_nil, or_false] at state
    rcases state with state | state | state <;> rw [state]
  · intro late
    refine joinedIs ?_
    by_cases isMeant : ∃ r, q.aimedRdv target tag = some r ∧ r.partner = h.sender ∧ r.role = .source
    · obtain ⟨r, aimed, partner, role⟩ := isMeant
      have ⟨isOpen, isAimed⟩ := openedQ aimed
      have state := late r isOpen ⟨isAimed, partner, role⟩
      rw [Fc4.joinedHeard_of_meant aimed partner role]
      simp only [List.mem_cons, List.not_mem_nil, or_false] at state
      rcases state with state | state | state <;> rw [state]
    · exact Fc4.joinedHeard_of_not_meant fun r aimed is => isMeant ⟨r, aimed, is⟩
  · intro r isOpen isAimed partner role state
    exact doneIs (by rw [Fc4.doneHeard_of_meant (p := p.tracked h false unlandedFields) (aimedU isOpen isAimed) partner role, state]; rfl)
  · intro r isOpen isAimed partner role state
    refine doneIs ?_
    rw [Fc4.doneHeard_of_meant (p := p.tracked h false unlandedFields) (aimedU isOpen isAimed) partner role]
    simp only [List.mem_cons, List.not_mem_nil, or_false] at state
    rcases state with state | state | state <;> rw [state] <;> rfl
  · intro late
    refine doneIs ?_
    by_cases isMeant : ∃ r, u.aimedRdv target tag = some r ∧ r.partner = h.sender ∧ r.role = .sense
    · obtain ⟨r, aimed, partner, role⟩ := isMeant
      have ⟨isOpen, isAimed⟩ := openedU aimed
      have state := late r isOpen isAimed partner role
      rw [Fc4.doneHeard_of_meant (p := p.tracked h false unlandedFields) aimed partner role]
      simp only [List.mem_cons, List.not_mem_nil, or_false] at state
      rcases state with state | state | state <;> rw [state] <;> rfl
    · exact Fc4.doneHeard_of_not_meant fun r aimed is => isMeant ⟨r, aimed, is⟩
  · intro r isOpen isAimed partner state
    exact abandonIs ((Fc4.abandonHeard_of_aimed (p := p.tracked h false unlandedFields) (aimedU isOpen isAimed)).trans (if_pos ⟨partner, state⟩))
  · intro isOwn noTag
    have none_ : u.aimedRdv target tag = none := Fc4.aimedRdv_eq_none fun r isOpen _ => noTag r isOpen
    have removes := Fc4.abandonHeard_of_not_open (p := p.tracked h false unlandedFields) (sender := h.sender) isOwn none_
    refine ⟨fun e queued => abandonIs (removes.trans ?_), fun queued => abandonIs (removes.trans ?_)⟩
    · have found : ((p.tracked h false unlandedFields).dropNote h.sender).queuedEntry h.sender tag = some e := queued
      simp only [Fc4.removeAbandoned, found]
      rfl
    · have found : ((p.tracked h false unlandedFields).dropNote h.sender).queuedEntry h.sender tag = none := queued
      simp only [Fc4.removeAbandoned, found]
      rfl
  · rintro (⟨r, isOpen, isAimed, other⟩ | elsewhere)
    · refine abandonIs ((Fc4.abandonHeard_of_aimed (p := p.tracked h false unlandedFields) (aimedU isOpen isAimed)).trans (if_neg ?_))
      rintro ⟨partner, state⟩
      exact other.elim (absurd partner) state
    · exact abandonIs (Fc4.abandonHeard_elsewhere (p := p.tracked h false unlandedFields) elsewhere)

end Sys2Proof.Machine
end

section
/-! PROOF. An ASK heard, and the yield that it makes due (O25). -/

namespace Sys2Proof.Machine

/-! ### The received-ask set -/

theorem Fc4.askHeard_joins {p : Fc4} {sender target : Station} {b : Box} (isOwn : target = p.own)
    (works : working p.ctl.mode = true) (uncrossed : p.resv.ask.map Ask.target ≠ some sender) :
    p.askHeard sender target b = p.admitAsk sender b := by
  rw [Fc4.askHeard, if_pos ⟨isOwn, works⟩]
  split
  · rename_i a ask
    exact if_neg fun same => uncrossed (by simp [ask, same])
  · rfl

theorem Fc4.askHeard_crossed {p : Fc4} {sender target : Station} {b : Box} (isOwn : target = p.own)
    (works : working p.ctl.mode = true) (crossed : p.resv.ask.map Ask.target = some sender) :
    p.askHeard sender target b = if sender.val < p.own.val then p.endAsk.admitAsk sender b else p := by
  obtain ⟨a, ask, same⟩ := Option.map_eq_some_iff.1 crossed
  rw [Fc4.askHeard, if_pos ⟨isOwn, works⟩]
  simp only [ask]
  exact if_pos same

theorem Fc4.askHeard_not_taken {p : Fc4} {sender target : Station} {b : Box}
    (h : ¬ (target = p.own ∧ working p.ctl.mode = true)) : p.askHeard sender target b = p := if_neg h

/-! ### When a yield falls due, and when it begins -/

theorem Fc4.finishing_iff (q : Fc4) : q.finishing = true ↔ ∃ r, q.pair.rdv = some r ∧ r.state = .finishing := by
  unfold Fc4.finishing
  cases q.pair.rdv <;> simp

theorem Fc4.yieldFallsDue_eq (q : Fc4) : q.yieldFallsDue = ({ q with
    resv := { q.resv with yieldDue := true, yieldAtClose := q.finishing && decide (q.motion.zState = ZState.raised) }
    work := { q.work with waiting := false } }).yieldIfReady := by
  simp [Fc4.yieldFallsDue, Fc4.refreshWaiting, Fc4.holdsForResults]

theorem Fc4.moveInProgress_eq_false (q : Fc4) : q.moveInProgress = false ↔ q.motion.axis = .standing := by
  simp [Fc4.moveInProgress]

theorem Fc4.yieldUnderWay_eq_false (q : Fc4) : q.yieldUnderWay = false ↔
    (∀ c, q.resv.claim = some c → c.who ≠ .yield) ∧ (∀ m, q.motion.permitted = some m → m.purpose ≠ .yield) ∧
      ∀ m, q.motion.move = some m → m.purpose ≠ .yield := by
  unfold Fc4.yieldUnderWay
  cases q.resv.claim <;> cases q.motion.permitted <;> cases q.motion.move <;> simp [and_assoc]

/-- The point at which a due yield begins (R58, log 14). -/
theorem Fc4.yieldReady_iff (q : Fc4) : q.yieldReady = true ↔
    q.resv.yieldDue = true ∧ q.motion.axis = .standing ∧ q.motion.zState = .raised ∧
      (∀ c, q.resv.claim = some c → c.who ≠ .yield) ∧ (∀ m, q.motion.permitted = some m → m.purpose ≠ .yield) ∧
      (∀ m, q.motion.move = some m → m.purpose ≠ .yield) ∧ (∀ t, q.work.touch = some t → t.stage ≠ .descent) ∧
      ¬ (q.resv.yieldAtClose = true ∧ ∃ r, q.pair.rdv = some r ∧ r.state = .finishing) := by
  cases touch : q.work.touch <;>
    simp [Fc4.yieldReady, touch, q.moveInProgress_eq_false, q.yieldUnderWay_eq_false, ← q.finishing_iff, and_assoc,
      or_iff_not_imp_left]

/-! ### How a yield begins, and what it drops -/

theorem Fc4.atHavenFlag_iff (q : Fc4) : q.atHavenFlag = true ↔ q.motion.axis = .standing ∧ q.here = q.geo.haven := by
  simp [Fc4.atHavenFlag, q.moveInProgress_eq_false]

theorem Fc4.yieldDrops_eq (q : Fc4) : q.yieldDrops =
    if q.resv.claim.isSome ∨ q.motion.permitted.isSome then
      ({ q.withdrawClaim with motion := { q.motion with permitted := none } }).requeueTouch
    else q := by
  simp only [Fc4.yieldDrops, Bool.or_eq_true, or_comm]

theorem Fc4.requeueTouch_of_touch {q : Fc4} (h : q.work.touch.isSome = true) : q.requeueTouch = { q with
    work := { q.work with touch := none, list := q.work.list.map (fun e => if e.st = .active then { e with st := .queued } else e) }
    pair := { q.pair with rdv := none } } := if_pos h

theorem Fc4.requeueTouch_of_none {q : Fc4} (h : q.work.touch = none) : q.requeueTouch = q := by simp [Fc4.requeueTouch, h]

/-! ### The answer -/

theorem Fc4.answerAsks_of_nil {q : Fc4} (h : q.resv.asks = []) (cause : Nat → ReleaseCause) :
    q.answerAsks cause = (q.releaseDue (cause 0)).settleAsks := by simp [Fc4.answerAsks, Fc4.lowestAsker, h]

theorem Fc4.answerAsks_of_cons {q : Fc4} {a : Nat × Box} {rest : List (Nat × Box)} (h : q.resv.asks = a :: rest)
    (cause : Nat → ReleaseCause) : q.answerAsks cause = (q.releaseDue (cause a.1)).settleAsks := by
  simp [Fc4.answerAsks, Fc4.lowestAsker, h]

/-- New shadows of distinct askers: each takes the place of an older one, in the order of the askers. -/
theorem foldl_addShadow {asks : List (Nat × Box)} (distinct : asks.Pairwise (fun a b => a.1 ≠ b.1)) (expiry : Time)
    (shadows : List Shadow) :
    asks.foldl (fun acc a => addShadow acc ⟨a.1, a.2, expiry⟩) shadows =
      shadows.filter (fun x => decide (∀ a ∈ asks, a.1 ≠ x.asker)) ++ asks.map (fun a => ⟨a.1, a.2, expiry⟩) := by
  induction asks generalizing shadows with
  | nil => simp
  | cons a rest ih =>
    rw [List.pairwise_cons] at distinct
    have newest : ∀ b ∈ rest, b.1 ≠ a.1 := fun b hb => (distinct.1 b hb).symm
    have others : ∀ x : Shadow, decide (∀ b ∈ a :: rest, b.1 ≠ x.asker) =
        (decide (∀ b ∈ rest, b.1 ≠ x.asker) && !decide (x.asker = a.1)) := by
      intro x
      rw [Bool.eq_iff_iff]
      simp only [decide_eq_true_eq, List.forall_mem_cons, Bool.and_eq_true, Bool.not_eq_true', decide_eq_false_iff_not]
      rw [and_comm, ne_comm]
    rw [List.foldl_cons, ih distinct.2]
    simp only [addShadow, List.filter_append, List.filter_filter, others, List.map_cons]
    rw [List.filter_cons_of_pos (by simpa using newest)]
    simp

theorem Fc4.settleAsks_eq {q : Fc4} (sorted : tableSorted q.resv.asks = true) : q.settleAsks = { q with resv := { q.resv with
    asks := [], yieldDue := false, yieldAtClose := false
    shadows := q.resv.shadows.filter (fun x => decide (∀ a ∈ q.resv.asks, a.1 ≠ x.asker)) ++
      q.resv.asks.map (fun a => ⟨a.1, a.2, q.now + ms 50⟩) } } := by
  have distinct : q.resv.asks.Pairwise (fun a b => a.1 ≠ b.1) :=
    ((tableSorted_iff _).1 sorted).imp fun h => Nat.ne_of_lt h
  unfold Fc4.settleAsks
  rw [foldl_addShadow distinct (q.now + shadowTime) q.resv.shadows]
  rfl

/-- Settles O25. -/
theorem askHeardJoinsTheSet : Obligations.AskHeardJoinsTheSet := by
  constructor
  · intro s dt h target b heard other head wf p u joins taken crossed
    have becomes : ∀ v, u.askHeard h.sender target b.box = v →
        exec (.askReceived dt h target b) s = .next { s with part := v.pairRecheck.recheck } :=
      fun v consumed => heardRow_becomes heard other head (Box.ordered_of_wf wf) consumed
    refine ⟨fun ⟨isOwn, works⟩ uncrossed => becomes _ (u.askHeard_joins isOwn works uncrossed),
      fun ⟨isOwn, works⟩ isCrossed lower => becomes _ ((u.askHeard_crossed isOwn works isCrossed).trans (if_pos lower)),
      fun h => becomes _ ?_⟩
    by_cases isTaken : taken
    · obtain ⟨isCrossed, higher⟩ := h.resolve_left (not_not_intro isTaken)
      exact (u.askHeard_crossed isTaken.1 isTaken.2 isCrossed).trans (if_neg (Nat.lt_asymm higher))
    · exact u.askHeard_not_taken isTaken
  · intro q finishing due
    refine ⟨fun ⟨closing, raised⟩ => ?_, fun late => ?_, ?_, ?_, ?_, Fc4.requeueTouch_of_none, Fc4.requeueTouch_of_touch,
      fun cause => ⟨fun empty => Fc4.answerAsks_of_nil empty cause, fun a rest asks =>
        ⟨Fc4.answerAsks_of_cons asks cause, fun sorted b hb => ?_⟩⟩, Fc4.settleAsks_eq⟩
    · rw [q.yieldFallsDue_eq, q.finishing_iff.2 closing, raised]; rfl
    · have notYet : (q.finishing && decide (q.motion.zState = .raised)) = false := by
        rw [Bool.and_eq_false_imp]
        exact fun closing => decide_eq_false fun raised => late ⟨q.finishing_iff.1 closing, raised⟩
      rw [q.yieldFallsDue_eq, notYet]
    · intro ready
      exact ⟨q.yieldReady_iff.symm, fun is => if_pos (q.yieldReady_iff.2 is), fun is => if_neg (mt q.yieldReady_iff.1 is)⟩
    · intro u there
      exact ⟨fun is => if_pos (u.atHavenFlag_iff.2 is), fun is => if_neg (mt u.atHavenFlag_iff.1 is)⟩
    · intro dropped
      show ({ q.yieldDrops with motion := q.yieldDrops.motion.endPark } : Fc4) = _
      rw [q.yieldDrops_eq]
      rfl
    · have rising := (tableSorted_iff _).1 sorted
      rw [asks, List.pairwise_cons] at rising
      exact rising.1 b hb

end Sys2Proof.Machine
end

section
/-! PROOF. The Reservation Unit: the four tests of a claim (O29), its examination (O30), its ask and its end (O31), and the
timers (O28). -/

namespace Sys2Proof.Machine

/-! ### The four tests -/

theorem overlapsRecord_eq_false (own : Side) (b : Box) (r : PeerRecord) :
    overlapsRecord own b r = false ↔ ∀ e, effectiveBox own r = some e → overlaps b e = false := by
  unfold overlapsRecord
  cases effectiveBox own r <;> simp

theorem Fc4.overlapsPeers_eq_false (p : Fc4) (b : Box) : p.overlapsPeers b = false ↔
    ∀ x ∈ p.view.peers, ∀ e, effectiveBox p.ctl.side x.2 = some e → overlaps b e = false := by
  simp only [Fc4.overlapsPeers, List.any_eq_false, Bool.not_eq_true, overlapsRecord_eq_false]

theorem Fc4.overlapsShadows_eq_false (p : Fc4) (b : Box) : p.overlapsShadows b = false ↔
    ∀ x ∈ p.resv.shadows, p.now ≤ x.expiry → overlaps b x.box = false := by
  simp [Fc4.overlapsShadows, shadowActive]

theorem mem_allLines (l : Line) : l ∈ allLines := by cases l <;> simp [allLines]

theorem restOver_iff (rest : Option Time) (now : Time) : restOver rest now = true ↔ ∀ t, rest = some t → t < now := by
  cases rest <;> simp [restOver]

theorem Fc4.claimLinesFree_iff (p : Fc4) (lines : LineRoles) : p.claimLinesFree lines = true ↔
    ∀ l, holdsLine lines l = true → holdsLine p.resv.heldLines l = false →
      (∀ x ∈ p.view.peers, l ∉ effectiveLines x.2) ∧ ∀ t, restOf p.view.rests l = some t → t < p.now := by
  simp only [Fc4.claimLinesFree, List.all_eq_true, mem_allLines, true_imp_iff]
  refine forall_congr' fun l => ?_
  cases asked : holdsLine lines l <;> cases held : holdsLine p.resv.heldLines l <;>
    simp [Fc4.lineFree, Fc4.lineInUse, held, restOver_iff]

theorem mem_effectiveLines (r : PeerRecord) (l : Line) : l ∈ effectiveLines r ↔
    (r.presence = .present ∧ (r.lines.force = some l ∨ r.lines.ret = some l)) ∨ r.presence = .unsure ∨
      (r.presence = .silent ∧ ∃ f, r.frozen = some f ∧ l ∈ f.lines) := by
  unfold effectiveLines
  cases presence : r.presence
  · simp [mem_allLines, holdsLine]
  · simp [mem_allLines]
  · cases r.frozen <;> simp

/-- Settles O29. -/
theorem claimPassesByFourTests : Obligations.ClaimPassesByFourTests := by
  refine ⟨fun p b lines => ?_, fun own r => ?_⟩
  · simp only [Fc4.claimPasses, Bool.and_eq_true, Bool.not_eq_true', p.overlapsPeers_eq_false, p.overlapsShadows_eq_false,
      p.claimLinesFree_iff, and_assoc]
  · refine ⟨fun side known other => ?_, fun near => ?_, mem_effectiveLines r⟩
    · simp [effectiveBox, known, other]
    · have sameSide : (r.side.isSome && !decide (r.side = some own)) = false := by
        cases known : r.side with
        | none => rfl
        | some side => simp [near side known]
      refine ⟨fun present fault => ?_, fun present noFault => ?_, fun unsure => ?_, fun silent => ⟨fun f frozen => ?_, fun frozen => ?_⟩⟩
      · simp only [effectiveBox, sameSide, present, fault, if_pos]; rfl
      · simp only [effectiveBox, sameSide, present, noFault, if_false]; rfl
      · simp only [effectiveBox, sameSide, unsure]; rfl
      · simp only [effectiveBox, sameSide, silent, frozen]; rfl
      · simp only [effectiveBox, sameSide, silent, frozen]; rfl

/-! ### What an examination changes -/

/-- The own frame on the line is as it was but for its two marks. -/
def Restamped (o o' : Option OwnFrame) : Prop :=
  o' = o ∨ ∃ f w r, o = some f ∧ o' = some { f with withdrawn := w, refilled := r }

theorem Restamped.trans {a b c : Option OwnFrame} (h : Restamped a b) (g : Restamped b c) : Restamped a c := by
  rcases h with rfl | ⟨f, w, r, rfl, rfl⟩
  · exact g
  · rcases g with rfl | ⟨_, w', r', same, rfl⟩
    · exact .inr ⟨f, w, r, rfl, rfl⟩
    · cases same; exact .inr ⟨f, w', r', rfl, rfl⟩

theorem Link.noteRefill_restamps (l : Link) (k : FrameKind) :
    ∃ o, Restamped l.onLine o ∧ l.noteRefill k = { l with onLine := o } := by
  unfold Link.noteRefill
  split
  · refine ⟨_, ?_, rfl⟩
    cases onLine : l.onLine with
    | none => exact .inl rfl
    | some f => exact .inr ⟨f, f.withdrawn, true, rfl, rfl⟩
  · exact ⟨_, .inl rfl, rfl⟩

theorem Link.noteWithdrawal_restamps (l : Link) (k : FrameKind) :
    ∃ o, Restamped l.onLine o ∧ l.noteWithdrawal k = { l with onLine := o } := by
  unfold Link.noteWithdrawal
  split
  · refine ⟨_, ?_, rfl⟩
    cases onLine : l.onLine with
    | none => exact .inl rfl
    | some f => exact .inr ⟨f, true, false, rfl, rfl⟩
  · exact ⟨_, .inl rfl, rfl⟩

/-- `u` is `p` but for what an examination may change: the pending claim, the blocked time, the timer, the ask, the CLAIM
and ASK slots, and the marks of the own frame on the line. -/
def Examined (p u : Fc4) : Prop :=
  ∃ claimSlot askSlot onLine claim since due ask, Restamped p.link.onLine onLine ∧
    u = { p with
      link := { p.link with claim := claimSlot, ask := askSlot, onLine }
      resv := { p.resv with claim, blockedSince := since, recheckDue := due, ask } }

theorem Examined.refl (p : Fc4) : Examined p p := ⟨_, _, _, _, _, _, _, .inl rfl, rfl⟩

theorem Examined.trans {p u v : Fc4} (h : Examined p u) (g : Examined u v) : Examined p v := by
  obtain ⟨_, _, _, _, _, _, _, stamps, rfl⟩ := h
  obtain ⟨_, _, _, _, _, _, _, stamps', rfl⟩ := g
  exact ⟨_, _, _, _, _, _, _, stamps.trans stamps', rfl⟩

theorem Fc4.endAsk_examined (p : Fc4) : Examined p p.endAsk := by
  unfold Fc4.endAsk
  split
  · split
    · obtain ⟨o, stamps, same⟩ := Link.noteWithdrawal_restamps { p.link with ask := none } .ask
      rw [Link.withdrawAsk, same]
      exact ⟨_, _, _, _, _, _, _, stamps, rfl⟩
    · exact ⟨_, _, _, _, _, _, _, .inl rfl, rfl⟩
  · exact .refl p

theorem Fc4.noteBlocked_examined (p : Fc4) : Examined p p.noteBlocked := by
  unfold Fc4.noteBlocked
  split
  · exact .refl p
  · exact ⟨_, _, _, _, _, _, _, .inl rfl, rfl⟩

theorem Fc4.reviewAsk_examined (p : Fc4) (b : Box) : Examined p (p.reviewAsk b) := by
  unfold Fc4.reviewAsk
  repeat' split
  · exact p.endAsk_examined
  · exact .refl p
  · exact .refl p

theorem Fc4.createAsk_examined (p : Fc4) (c : Claim) : Examined p (p.createAsk c) := by
  unfold Fc4.createAsk
  repeat' split
  · rename_i peer _
    obtain ⟨o, stamps, same⟩ := Link.noteRefill_restamps { p.link with ask := some ⟨peer, c.box⟩ } .ask
    rw [Link.fillAsk, same]
    exact ⟨_, _, _, _, _, _, _, stamps, rfl⟩
  all_goals exact .refl p

theorem Fc4.claimFails_examined (p : Fc4) (c : Claim) : Examined p (p.claimFails c) :=
  (p.noteBlocked_examined.trans (Fc4.reviewAsk_examined _ _)).trans (Fc4.createAsk_examined _ _)

theorem Fc4.claimFills_examined (p : Fc4) (c : Claim) : Examined p (p.claimFills c) := by
  refine .trans ?_ (Fc4.reviewAsk_examined _ _)
  obtain ⟨o, stamps, same⟩ := Link.noteRefill_restamps { p.link with claim := some ⟨c.box, c.lines, c.tag⟩ } .claim
  rw [Link.fillClaim, same]
  exact ⟨_, _, _, _, _, _, _, stamps, rfl⟩

theorem Fc4.examine_examined (p : Fc4) : Examined p p.examine := by
  unfold Fc4.examine
  repeat' split
  · exact .refl p
  · exact p.claimFails_examined _
  · exact p.claimFills_examined _
  · exact p.claimFails_examined _

/-! ### Its outcome -/

theorem Fc4.claimNow_move (p : Fc4) {c : Claim} (move : c.kind = .move) : p.claimNow c = some c := by
  simp only [Fc4.claimNow, move]

theorem Fc4.claimNow_line (p : Fc4) {c : Claim} (line : c.kind = .line) :
    p.claimNow c = p.lineChoice.map (fun lines => { c with box := p.heldOrStanding, lines }) := by
  simp only [Fc4.claimNow, line]

theorem Fc4.examine_none {p : Fc4} (h : p.resv.claim = none) : p.examine = p := by simp [Fc4.examine, h]

theorem Fc4.examine_passes {p : Fc4} {c c' : Claim} (pending : p.resv.claim = some c) (taken : p.claimNow c = some c')
    (passes : p.claimPasses c'.box c'.lines = true) : p.examine = p.claimFills c' := by
  simp only [Fc4.examine, pending, taken]
  exact if_pos passes

/-- The claim that an examination fails, for its lines or for its four tests: that of the examination, or as it stood. -/
theorem Fc4.examine_fails {p : Fc4} {c : Claim} (pending : p.resv.claim = some c)
    (fails : ∀ c', p.claimNow c = some c' → p.claimPasses c'.box c'.lines = false) :
    ∃ c', p.examine = p.claimFails c' ∧ c'.kind = c.kind := by
  simp only [Fc4.examine, pending]
  cases taken : p.claimNow c with
  | none => exact ⟨c, rfl, rfl⟩
  | some c' =>
    refine ⟨c', if_neg (by simp [fails c' taken]), ?_⟩
    cases kind : c.kind with
    | move => rw [p.claimNow_move kind] at taken; cases taken; exact kind
    | line =>
      rw [p.claimNow_line kind] at taken
      obtain ⟨lines, -, rfl⟩ := Option.map_eq_some_iff.1 taken
      exact kind

@[simp] theorem Link.noteWithdrawal_claim (l : Link) (k : FrameKind) : (l.noteWithdrawal k).claim = l.claim := by
  unfold Link.noteWithdrawal; split <;> rfl

@[simp] theorem Link.noteWithdrawal_ask (l : Link) (k : FrameKind) : (l.noteWithdrawal k).ask = l.ask := by
  unfold Link.noteWithdrawal; split <;> rfl

@[simp] theorem Link.noteRefill_claim (l : Link) (k : FrameKind) : (l.noteRefill k).claim = l.claim := by
  unfold Link.noteRefill; split <;> rfl

@[simp] theorem Link.noteRefill_ask (l : Link) (k : FrameKind) : (l.noteRefill k).ask = l.ask := by
  unfold Link.noteRefill; split <;> rfl

@[simp] theorem Fc4.endAsk_linkClaim (p : Fc4) : p.endAsk.link.claim = p.link.claim := by
  unfold Fc4.endAsk; repeat' split
  · exact Link.noteWithdrawal_claim _ _
  · rfl
  · rfl

@[simp] theorem Fc4.endAsk_blockedSince (p : Fc4) : p.endAsk.resv.blockedSince = p.resv.blockedSince := by
  unfold Fc4.endAsk; split <;> rfl

@[simp] theorem Fc4.endAsk_ask (p : Fc4) : p.endAsk.resv.ask = none := by
  unfold Fc4.endAsk; split
  · rfl
  · assumption

/-- What the review of an ask leaves: claim, CLAIM slot and blocked time. -/
theorem Fc4.reviewAsk_leaves (p : Fc4) (b : Box) : (p.reviewAsk b).resv.claim = p.resv.claim ∧
    (p.reviewAsk b).link.claim = p.link.claim ∧ (p.reviewAsk b).resv.blockedSince = p.resv.blockedSince := by
  unfold Fc4.reviewAsk; repeat' split
  · simp
  · exact ⟨rfl, rfl, rfl⟩
  · exact ⟨rfl, rfl, rfl⟩

theorem Fc4.createAsk_leaves (p : Fc4) (c : Claim) : (p.createAsk c).resv.claim = p.resv.claim ∧
    (p.createAsk c).link.claim = p.link.claim ∧ (p.createAsk c).resv.blockedSince = p.resv.blockedSince := by
  unfold Fc4.createAsk; repeat' split
  · exact ⟨rfl, Link.noteRefill_claim _ _, rfl⟩
  all_goals exact ⟨rfl, rfl, rfl⟩

theorem Fc4.noteBlocked_leaves (p : Fc4) : p.noteBlocked.resv.claim = p.resv.claim ∧
    p.noteBlocked.link = p.link ∧ p.noteBlocked.resv.blockedSince = some (p.resv.blockedSince.getD p.now) ∧
    p.noteBlocked.resv.ask = p.resv.ask := by
  unfold Fc4.noteBlocked; split
  · rename_i t since; simp [since]
  · rename_i since; simp [since]

theorem Fc4.claimFails_leaves (p : Fc4) (c : Claim) : (p.claimFails c).resv.claim = p.resv.claim ∧
    (p.claimFails c).link.claim = p.link.claim ∧
    (p.claimFails c).resv.blockedSince = some (p.resv.blockedSince.getD p.now) := by
  have created := (p.noteBlocked.reviewAsk c.box).createAsk_leaves c
  have reviewed := p.noteBlocked.reviewAsk_leaves c.box
  have noted := p.noteBlocked_leaves
  exact ⟨created.1.trans (reviewed.1.trans noted.1), created.2.1.trans (reviewed.2.1.trans (congrArg _ noted.2.1)),
    created.2.2.trans (reviewed.2.2.trans noted.2.2.1)⟩

theorem Fc4.claimFills_leaves (p : Fc4) (c : Claim) : (p.claimFills c).resv.claim = some c ∧
    (p.claimFills c).link.claim = some ⟨c.box, c.lines, c.tag⟩ ∧
    (p.claimFills c).resv.blockedSince = p.resv.blockedSince := by
  obtain ⟨claim, slot, since⟩ := Fc4.reviewAsk_leaves ({ p with
    resv := { p.resv with claim := some c }, link := p.link.fillClaim ⟨c.box, c.lines, c.tag⟩ }) c.box
  exact ⟨claim, slot.trans (Link.noteRefill_claim _ _), since⟩

theorem Fc4.reviewAsk_of_none {p : Fc4} (h : p.resv.ask = none) (b : Box) : p.reviewAsk b = p := by
  simp [Fc4.reviewAsk, h]

/-- A LINE claim makes no ask (R53). -/
theorem Fc4.createAsk_of_line (p : Fc4) {c : Claim} (line : c.kind = .line) : p.createAsk c = p := by
  unfold Fc4.createAsk
  split
  · exact if_neg (by simp [line])
  · rfl

/-- An examination with no ask outstanding makes none for a LINE claim. -/
theorem Fc4.examine_line_ask {p : Fc4} {c : Claim} (pending : p.resv.claim = some c) (noAsk : p.resv.ask = none)
    (line : c.kind = .line) : p.examine.resv.ask = none := by
  have kinds : ∀ {c' : Claim}, c'.kind = c.kind → (p.claimFails c').resv.ask = none := by
    intro c' kind
    have noted := (p.noteBlocked_leaves.2.2.2).trans noAsk
    rw [Fc4.claimFails, Fc4.reviewAsk_of_none noted, Fc4.createAsk_of_line _ (kind.trans line)]
    exact noted
  by_cases passes : ∃ c', p.claimNow c = some c' ∧ p.claimPasses c'.box c'.lines = true
  · obtain ⟨c', taken, passes⟩ := passes
    rw [Fc4.examine_passes pending taken passes, Fc4.claimFills, Fc4.reviewAsk_of_none (by exact noAsk)]
    exact noAsk
  · obtain ⟨c', fails, kind⟩ := Fc4.examine_fails pending fun c' taken => by
      rw [← Bool.not_eq_true]; exact fun is => passes ⟨c', taken, is⟩
    rw [fails]
    exact kinds kind

/-- Settles O30. -/
theorem examinationFillsOrBlocks : Obligations.ExaminationFillsOrBlocks := by
  refine fun p => ⟨Fc4.examine_none, fun c pending => ⟨_, rfl, fun c' taken passes => ?_, fun fails => ?_,
    p.claimNow_move, fun line a b rest free => ?_, fun line few => ?_, Fc4.examine_line_ask pending, ?_, ?_⟩⟩
  · rw [Fc4.examine_passes pending taken passes]
    exact p.claimFills_leaves c'
  · obtain ⟨c', failed, -⟩ := Fc4.examine_fails pending fails
    rw [failed]
    obtain ⟨claim, slot, since⟩ := p.claimFails_leaves c'
    exact ⟨claim.trans pending, slot, since⟩
  · simp [p.claimNow_line line, Fc4.lineChoice, free]
  · rw [p.claimNow_line line]
    unfold Fc4.lineChoice
    split
    · rename_i free; simp [free] at few
    · rfl
  · obtain ⟨_, _, _, _, _, _, _, stamps, same⟩ := p.examine_examined
    rw [same]
    exact stamps
  · obtain ⟨_, _, _, _, _, _, _, -, same⟩ := p.examine_examined
    rw [same]

end Sys2Proof.Machine
end

section
/-! PROOF. The ask of a blocked claim and the end of the claim (O31), and the timers (O28). -/

namespace Sys2Proof.Machine

/-! ### Blockers -/

/-- A PRESENT peer whose effective box overlaps the box (R53). -/
def Fc4.Blocks (p : Fc4) (b : Box) (peer : Station) : Prop :=
  ∃ r e, p.record peer = some r ∧ r.presence = .present ∧ effectiveBox p.ctl.side r = some e ∧ overlaps b e = true

theorem overlapsRecord_iff (own : Side) (b : Box) (r : PeerRecord) :
    overlapsRecord own b r = true ↔ ∃ e, effectiveBox own r = some e ∧ overlaps b e = true := by
  unfold overlapsRecord
  cases effectiveBox own r <;> simp

theorem Fc4.presentBlocker_iff (p : Fc4) (peer : Station) (b : Box) :
    p.presentBlocker peer b = true ↔ p.Blocks b peer := by
  unfold Fc4.presentBlocker Fc4.Blocks
  cases p.record peer <;> simp [overlapsRecord_iff]

/-- The first station of all that has the property is the lowest one that has it. -/
theorem find_finRange_of_lowest {n : Nat} {f : Fin n → Bool} {i : Fin n} (has : f i = true)
    (lowest : ∀ j : Fin n, j.val < i.val → f j = false) : (List.finRange n).find? f = some i := by
  have found : ((List.finRange n).find? f).isSome = true := List.find?_isSome.2 ⟨i, List.mem_finRange i, has⟩
  obtain ⟨j, first⟩ := Option.isSome_iff_exists.1 found
  obtain ⟨hasJ, before, after, split, none_⟩ := List.find?_eq_some_iff_append.1 first
  have rising : (List.finRange n).Pairwise (· < ·) := List.pairwise_lt_finRange n
  rw [split, List.pairwise_append, List.pairwise_cons] at rising
  have place : i ∈ before ++ j :: after := split ▸ List.mem_finRange i
  rw [List.mem_append, List.mem_cons] at place
  rcases place with early | rfl | late
  · have := none_ i early
    simp [has] at this
  · exact first
  · have := lowest j (rising.2.1.1 i late)
    simp [hasJ] at this

theorem Fc4.askTarget_of_lowest {p : Fc4} {b : Box} {peer : Station} (blocks : p.Blocks b peer)
    (lowest : ∀ o : Station, o.val < peer.val → ¬ p.Blocks b o) : p.askTarget b = some peer :=
  find_finRange_of_lowest ((p.presentBlocker_iff peer b).2 blocks) fun o lower => by
    rw [← Bool.not_eq_true, p.presentBlocker_iff o b]; exact lowest o lower

theorem Fc4.askTarget_of_none {p : Fc4} {b : Box} (clear : ∀ peer, ¬ p.Blocks b peer) : p.askTarget b = none := by
  rw [Fc4.askTarget, List.find?_eq_none]
  exact fun o _ => by rw [p.presentBlocker_iff o b]; exact clear o

/-! ### The examination that a MOVE claim fails -/

theorem Fc4.examine_move_fails {p : Fc4} {c : Claim} (pending : p.resv.claim = some c) (move : c.kind = .move)
    (fails : p.claimPasses c.box c.lines = false) : p.examine = p.claimFails c := by
  simp only [Fc4.examine, pending, p.claimNow_move move]
  exact if_neg (by simp [fails])

theorem Fc4.noteBlocked_of_none {p : Fc4} (h : p.resv.blockedSince = none) :
    p.noteBlocked = { p with resv := { p.resv with blockedSince := some p.now, recheckDue := none } } := by
  simp [Fc4.noteBlocked, h]

theorem Fc4.noteBlocked_of_some {p : Fc4} {t : Time} (h : p.resv.blockedSince = some t) : p.noteBlocked = p := by
  simp [Fc4.noteBlocked, h]

/-- No ask before the claim has been blocked for 5,000 µs. -/
theorem Fc4.createAsk_early {p : Fc4} {t : Time} (since : p.resv.blockedSince = some t) (early : p.now < t + us 5000)
    (c : Claim) : p.createAsk c = p := by
  simp only [Fc4.createAsk, since]
  exact if_neg fun h => absurd h.2.2 (Nat.not_le.2 early)

theorem Fc4.createAsk_late {p : Fc4} {t : Time} {c : Claim} (since : p.resv.blockedSince = some t)
    (late : t + us 5000 ≤ p.now) (noAsk : p.resv.ask = none) (move : c.kind = .move) : p.createAsk c =
      match p.askTarget c.box with
      | some peer => { p with
          resv := { p.resv with ask := some ⟨peer, c.box, none⟩ }, link := p.link.fillAsk ⟨peer, c.box⟩ }
      | none => p := by
  simp only [Fc4.createAsk, since]
  exact if_pos ⟨move, noAsk, late⟩

/-- A claim that has an ask outstanding, or no peer to ask, makes none. -/
theorem Fc4.createAsk_unasked {p : Fc4} {c : Claim} (h : p.resv.ask.isSome = true ∨ p.askTarget c.box = none) :
    p.createAsk c = p := by
  unfold Fc4.createAsk
  split
  · split
    · rename_i may
      rcases h with h | h
      · simp [may.2.1] at h
      · simp [h]
    · rfl
  · rfl

@[simp] theorem Fc4.noteBlocked_view (p : Fc4) : p.noteBlocked.view = p.view := by
  unfold Fc4.noteBlocked; split <;> rfl

/-- What makes a peer a blocker: the Peer View and the side. -/
theorem Fc4.blocks_of_same {p q : Fc4} (view : q.view = p.view) (ctl : q.ctl = p.ctl) (b : Box) (peer : Station) :
    q.Blocks b peer ↔ p.Blocks b peer := by
  unfold Fc4.Blocks
  rw [Fc4.record_of_view view peer, ctl]

theorem Fc4.reviewAsk_stays {p : Fc4} {a : Ask} {b : Box} (ask : p.resv.ask = some a)
    (h : a.sent.isSome = true ∨ p.Blocks b a.target) : p.reviewAsk b = p := by
  simp only [Fc4.reviewAsk, ask]
  refine if_neg fun ends => ?_
  simp only [Bool.and_eq_true, Bool.not_eq_true', Option.isNone_iff_eq_none] at ends
  rcases h with h | h
  · simp [ends.1] at h
  · exact absurd ((p.presentBlocker_iff a.target b).2 h) (by simp [ends.2])

theorem Fc4.reviewAsk_ends {p : Fc4} {a : Ask} {b : Box} (ask : p.resv.ask = some a) (unsent : a.sent = none)
    (clear : ¬ p.Blocks b a.target) : p.reviewAsk b = p.endAsk := by
  simp only [Fc4.reviewAsk, ask]
  refine if_pos ?_
  have : p.presentBlocker a.target b = false := by rw [← Bool.not_eq_true, p.presentBlocker_iff]; exact clear
  simp [unsent, this]

theorem Fc4.endAsk_unsent {p : Fc4} {a : Ask} (ask : p.resv.ask = some a) (unsent : a.sent = none) :
    p.endAsk = { p with resv := { p.resv with ask := none }, link := p.link.withdrawAsk } := by
  simp [Fc4.endAsk, ask, unsent]

theorem Fc4.endAsk_sent {p : Fc4} {a : Ask} (ask : p.resv.ask = some a) (sent : a.sent.isSome = true) :
    p.endAsk = { p with resv := { p.resv with ask := none } } := by
  obtain ⟨t, at_⟩ := Option.isSome_iff_exists.1 sent
  simp [Fc4.endAsk, ask, at_]

theorem Fc4.endAsk_of_none {p : Fc4} (h : p.resv.ask = none) : p.endAsk = p := by simp [Fc4.endAsk, h]

/-- With an ask outstanding that stays, a failing examination only notes the block. -/
theorem Fc4.claimFails_ask_stays {p : Fc4} {c : Claim} {a : Ask} (ask : p.resv.ask = some a)
    (h : a.sent.isSome = true ∨ p.Blocks c.box a.target) : p.claimFails c = p.noteBlocked := by
  have still : p.noteBlocked.resv.ask = some a := p.noteBlocked_leaves.2.2.2.trans ask
  rw [Fc4.claimFails, Fc4.reviewAsk_stays still
    (h.imp_right ((Fc4.blocks_of_same p.noteBlocked_view p.noteBlocked_ctl c.box a.target).2))]
  exact Fc4.createAsk_unasked (.inl (by simp [still]))

/-- With an unsent ask that ends, and no peer to ask, a failing examination notes the block and ends the ask. -/
theorem Fc4.claimFails_ask_ends {p : Fc4} {c : Claim} {a : Ask} (ask : p.resv.ask = some a) (unsent : a.sent = none)
    (clear : ∀ peer, ¬ p.Blocks c.box peer) : p.claimFails c = p.noteBlocked.endAsk := by
  have still : p.noteBlocked.resv.ask = some a := p.noteBlocked_leaves.2.2.2.trans ask
  have same := Fc4.blocks_of_same (q := p.noteBlocked) p.noteBlocked_view p.noteBlocked_ctl c.box
  have same' := Fc4.blocks_of_same (q := p.noteBlocked.endAsk) p.noteBlocked.endAsk_view p.noteBlocked.endAsk_ctl c.box
  rw [Fc4.claimFails, Fc4.reviewAsk_ends still unsent (mt (same a.target).1 (clear a.target))]
  exact Fc4.createAsk_unasked (.inr (Fc4.askTarget_of_none fun peer h => clear peer ((same peer).1 ((same' peer).1 h))))

/-! ### The end of a claim -/

theorem Fc4.overdueClaim_of {p : Fc4} {c : Claim} {t : Time} (pending : p.resv.claim = some c)
    (since : p.resv.blockedSince = some t) (move : c.kind = .move) (late : t + ms 500 ≤ p.now) :
    p.overdueClaim = some c := by
  simp only [Fc4.overdueClaim, pending, since]
  exact if_pos ⟨move, late⟩

@[simp] theorem Fc4.withdrawClaim_activeEntry (p : Fc4) : p.withdrawClaim.activeEntry = p.activeEntry := by
  simp [Fc4.activeEntry]

@[simp] theorem Fc4.withdrawClaim_deferAllowed (p : Fc4) (e : Entry) :
    p.withdrawClaim.deferAllowed e = p.deferAllowed e := by simp [Fc4.deferAllowed]

theorem Fc4.giveUp_touch {p : Fc4} {c : Claim} {e : Entry} (who : c.who = .touchList) (active : p.activeEntry = some e) :
    p.giveUp c = if p.deferAllowed e then (p.withdrawClaim.deferEntry e).afterTouch
      else p.withdrawClaim.endTouch .areaTimeout := by
  simp [Fc4.giveUp, who, Fc4.giveUpTouch, active]

theorem Fc4.giveUp_noTouch {p : Fc4} {c : Claim} (who : c.who = .touchList) (idle : p.activeEntry = none) :
    p.giveUp c = p.withdrawClaim := by
  simp [Fc4.giveUp, who, Fc4.giveUpTouch, idle]

/-! ### Withdrawals -/

theorem Link.noteWithdrawal_eq (l : Link) (k : FrameKind) : l.noteWithdrawal k = { l with
    onLine := l.onLine.map (fun f => if f.content.kind = k then { f with withdrawn := true, refilled := false } else f) } := by
  have unchanged : ∀ {o}, o = l.onLine → l = { l with onLine := o } := fun same => by rw [same]
  unfold Link.noteWithdrawal Link.sending
  cases onLine : l.onLine with
  | none => exact unchanged onLine.symm
  | some f =>
    by_cases same : f.content.kind = k
    · simp [same]
    · simp only [same, decide_false, Bool.false_eq_true, if_false, Option.map_some]
      exact unchanged onLine.symm

/-- Settles O31. -/
theorem blockedClaimAsksThenIsGivenUp : Obligations.BlockedClaimAsksThenIsGivenUp := by
  refine ⟨?_, ?_, fun p => ⟨fun none_ => by simp [Fc4.withdrawClaim, none_], fun pending => if_pos pending,
    Fc4.endAsk_of_none, fun a ask => ⟨Fc4.endAsk_unsent ask, Fc4.endAsk_sent ask⟩,
    Link.noteWithdrawal_eq _ .claim, Link.noteWithdrawal_eq _ .ask⟩⟩
  · intro p c pending move fails blocks u
    have failed : u = p.claimFails c := Fc4.examine_move_fails pending move fails
    refine ⟨fun noAsk => ?_, fun a ask => ⟨fun stays => ?_, fun unsent clear none_ => ?_⟩⟩
    · have noted := p.noteBlocked_leaves.2.2.2.trans noAsk
      rw [Fc4.claimFails, Fc4.reviewAsk_of_none noted] at failed
      refine ⟨fun first => ?_, fun t since => ?_⟩
      · rw [failed, Fc4.noteBlocked_of_none first]
        exact Fc4.createAsk_early (t := p.now) rfl (by simp [us]) c
      · rw [Fc4.noteBlocked_of_some since] at failed
        refine ⟨fun early => failed.trans (Fc4.createAsk_early since early c), fun late => ?_⟩
        rw [Fc4.createAsk_late since late noAsk move] at failed
        refine ⟨fun peer isBlocker lowest => ?_, fun clear => ?_⟩
        · rw [Fc4.askTarget_of_lowest isBlocker lowest] at failed
          refine ⟨failed, ?_⟩
          rw [failed]
          exact Link.noteRefill_ask _ _
        · rw [Fc4.askTarget_of_none clear] at failed
          exact failed
    · rw [failed, Fc4.claimFails_ask_stays ask stays]
      exact p.noteBlocked_leaves.2.2.2.trans ask
    · rw [failed, Fc4.claimFails_ask_ends ask unsent none_,
        Fc4.endAsk_unsent (p.noteBlocked_leaves.2.2.2.trans ask) unsent]
      exact ⟨rfl, Link.noteWithdrawal_ask _ _⟩
  · intro s dt c t pending since move p late u becomes
    have overdue : p.overdueClaim = some c := Fc4.overdueClaim_of pending since move late
    have isGivenUp : ∀ q, p.giveUp c = q → becomes q := by
      intro q given
      show execClaimGiveUp dt s = _
      unfold execClaimGiveUp
      refine rowEffect_of ?_
      simp only [show (s.part.elapse dt).overdueClaim = some c from overdue]
      exact given
    refine ⟨fun who e active => ⟨fun may => ?_, fun mayNot => ?_⟩, fun who idle => ?_, fun who => ?_, fun who => ?_, fun who => ?_⟩
    · exact isGivenUp _ ((Fc4.giveUp_touch who active).trans (if_pos may))
    · exact isGivenUp _ ((Fc4.giveUp_touch who active).trans (if_neg (by simp [mayNot])))
    · exact isGivenUp _ (Fc4.giveUp_noTouch who idle)
    · exact isGivenUp _ (by simp only [Fc4.giveUp, who]; rfl)
    · exact isGivenUp _ (by simp only [Fc4.giveUp, who]; rfl)
    · exact isGivenUp _ (by simp only [Fc4.giveUp, who]; rfl)

/-! ### Timers -/

/-- Settles O28. -/
theorem silenceRestShadowAndRecheckTimers : Obligations.SilenceRestShadowAndRecheckTimers := by
  intro s dt p
  refine ⟨?_, fun line t rest reached => ?_, fun asker x member isAsker expired => ?_, fun pending blocked noSlot due => ?_⟩
  · intro peer r receives record heardOf late gone u
    have isOver : (p.receiving && silenceOver r p.now) = true := by
      have receives' : p.receiving = true := receives
      simp only [receives', Bool.true_and, silenceOver, Bool.and_eq_true, Bool.not_eq_true', decide_eq_false_iff_not,
        decide_eq_true_eq]
      exact ⟨heardOf, late⟩
    show execPeerSilence dt peer s = _
    unfold execPeerSilence
    refine rowEffect_of ?_
    simp only [show (s.part.elapse dt).record peer = some r from record]
    exact onlyIf_of_true _ _ isOver
  · refine rowEffect_of (onlyIf_of_true _ _ ?_)
    have isRest : restOf p.view.rests line = some t := rest
    show p.restReached line = true
    simp [Fc4.restReached, isRest, reached]
  · refine rowEffect_of (onlyIf_of_true _ _ ?_)
    exact List.any_eq_true.2 ⟨x, member, by simp only [shadowOver, Bool.and_eq_true, decide_eq_true_eq]; exact ⟨isAsker, expired⟩⟩
  · have ticks : p.recheckTimerDue = true := by
      have h1 : p.resv.claim.isSome = true := pending
      have h2 : p.resv.blockedSince.isSome = true := blocked
      have h3 : p.link.claim = none := noSlot
      have h4 : ∀ t, p.resv.recheckDue = some t → t ≤ p.now := due
      unfold Fc4.recheckTimerDue
      cases hd : p.resv.recheckDue with
      | none => simp [h1, h2, h3]
      | some t => simp [h1, h2, h3, h4 t hd]
    refine rowEffect_of ((onlyIf_of_true _ _ ticks).trans ?_)
    refine if_pos ?_
    simp only [Bool.and_eq_true, Option.isNone_iff_eq_none]
    exact ⟨⟨pending, blocked⟩, noSlot⟩

end Sys2Proof.Machine
end

section
/-! PROOF. Steps (O1), resets, start-up and the configuration image (O33 to O37). -/

namespace Sys2Proof.Machine

/-- Settles O1: by the definition of a step. -/
theorem stepTakesTheFrontRow : Obligations.StepTakesTheFrontRow := fun _ _ => ⟨rfl, rfl⟩

/-! ### Resets -/

/-- Settles O33: the three rows of a reset, each through the values of `Fc4.afterReset`. -/
theorem resetClearsEveryBlock : Obligations.ResetClearsEveryBlock := by
  intro s dt r target straps row which
  rcases which with rfl | rfl | ⟨rfl, heard, started, aimed⟩
  · exact ⟨_, rfl, rfl, rfl, rfl, rfl, rfl, rfl, rfl, rfl, rfl, ⟨rfl, rfl, rfl, rfl, rfl, rfl, rfl, rfl⟩,
      fun _ => ⟨rfl, rfl⟩, nofun, nofun⟩
  · show ∃ t, execResetLineAsserted dt r s = .next t ∧ _
    unfold execResetLineAsserted
    have ctl : (s.part.elapse dt).ctl.resetHold = s.part.ctl.resetHold := rfl
    cases hold : s.part.ctl.resetHold with
    | none =>
      refine ⟨_, rowEffect_of (by simp only [ctl, hold]; rfl), rfl, rfl, rfl, rfl, rfl, rfl, rfl, rfl, rfl,
        ⟨rfl, rfl, rfl, rfl, rfl, rfl, rfl, rfl⟩, nofun, fun _ => ⟨rfl, ?_, fun _ => rfl⟩, nofun⟩
      rintro ⟨_, impossible, -⟩
      cases impossible
    | some h =>
      refine ⟨_, rowEffect_of (by simp only [ctl, hold]; rfl), rfl, rfl, rfl, rfl, rfl, rfl, rfl, rfl, rfl,
        ⟨rfl, rfl, rfl, rfl, rfl, rfl, rfl, rfl⟩, nofun, fun _ => ⟨rfl, ?_, fun never => ?_⟩, nofun⟩
      · rintro ⟨_, same, rose⟩
        cases same
        exact if_pos rose
      · exact if_neg (by simp [never h rfl])
  · have taken : exec (.reset dt target straps r) s = .next { s with part :=
        ((s.part.elapse dt).lineUsed.resetNow .commanded ⟨false, false, false⟩ r).endReset straps } :=
      rowEffect_of ((onlyIf_of_true _ _ heard).trans ((if_pos aimed).trans (if_neg started)))
    exact ⟨_, taken, by rw [if_pos rfl]; rfl, rfl, rfl, rfl, rfl, rfl, rfl, rfl, rfl,
      ⟨rfl, rfl, rfl, rfl, rfl, rfl, rfl, rfl⟩, nofun, nofun, fun _ => ⟨rfl, rfl, rfl, rfl⟩⟩

/-- Settles O34. -/
theorem resetEndsWithItsLastCause : Obligations.ResetEndsWithItsLastCause := by
  intro s dt straps h hold p ended
  have isHold : (s.part.elapse dt).ctl.resetHold = some h := hold
  refine ⟨fun waits free => ?_, fun waits held => ?_, fun held settled => ?_, fun held waits => ?_⟩
  · show execPowerOnSettled dt straps s = _
    unfold execPowerOnSettled
    exact rowEffect_of (by simp only [isHold, waits, free]; rfl)
  · show execPowerOnSettled dt straps s = _
    unfold execPowerOnSettled
    exact rowEffect_of (by simp only [isHold, waits, held]; rfl)
  · show execResetLineReleased dt straps s = _
    unfold execResetLineReleased
    exact rowEffect_of (by simp only [isHold, held, settled]; rfl)
  · show execResetLineReleased dt straps s = _
    unfold execResetLineReleased
    exact rowEffect_of (by simp only [isHold, held, waits]; rfl)

/-! ### Preparation -/

theorem Fc4.preparationEnd_unplaced {q : Fc4} (h : q.ctl.startPos = none) : q.preparationEnd = q := by
  unfold Fc4.preparationEnd; rw [h]; split <;> simp_all

theorem Fc4.preparationEnd_pending {q : Fc4} (h : q.ctl.judgement = .pending) : q.preparationEnd = q := by
  unfold Fc4.preparationEnd; rw [h]

theorem Fc4.preparationEnd_invalid {q : Fc4} {pos : Pos} (placed : q.ctl.startPos = some pos)
    (h : q.ctl.judgement = .invalid) : q.preparationEnd = q.enterCfgFault := by
  unfold Fc4.preparationEnd; rw [h, placed]

theorem Fc4.preparationEnd_valid {q : Fc4} {pos : Pos} {g : ImageConfig} (placed : q.ctl.startPos = some pos)
    (h : q.ctl.judgement = .valid) (config : q.ctl.config = some g) :
    q.preparationEnd = if allowed g pos then { q with link := { q.link with
        join := if q.link.linkDown.isSome then .held else .running (q.now + us 10000) } } else q.enterCfgFault := by
  unfold Fc4.preparationEnd; rw [h, placed, config]; simp only [Fc4.openJoin, joinWindow]

theorem Fc4.bothStopped_of {p : Fc4} (x : p.motion.ax.inPosition = true ∨ p.motion.ax.fault = true)
    (y : p.motion.ay.inPosition = true ∨ p.motion.ay.fault = true) : p.bothStopped = true := by
  simpa [Fc4.bothStopped, axisStopped] using ⟨x, y⟩

/-- Settles O35. -/
theorem preparationEndsInJoinOrCfgFault : Obligations.PreparationEndsInJoinOrCfgFault := by
  intro s dt receives starting p known judged
  have judges : ∀ g, p.judge g = judged g := by
    intro g
    show p.judge g = known _ g p.ctl.startPos
    unfold Fc4.judge
    cases placed : p.ctl.startPos with
    | none => exact Fc4.preparationEnd_unplaced placed
    | some pos =>
      cases g with
      | none => exact Fc4.preparationEnd_invalid (q := { p with
          ctl := { p.ctl with judgement := .invalid, config := none }, meas := { p.meas with k := none } }) placed rfl
      | some g => exact Fc4.preparationEnd_valid (q := { p with
          ctl := { p.ctl with judgement := .valid, config := some g }
          meas := { p.meas with k := some g.samples } }) placed rfl rfl
  have reads : s.part.ctl.judgement = .pending → p.imagePending = true := by
    intro pending
    have h1 : p.receiving = true := receives
    have h2 : p.ctl.mode = .starting := starting
    have h3 : p.ctl.judgement = .pending := pending
    simp [Fc4.imagePending, h1, h2, h3]
  refine ⟨fun image pending whole inTime => ?_, fun pending late => ?_, fun stopping x y => ?_⟩
  · show execImageJudged dt image s = _
    unfold execImageJudged
    refine rowEffect_of ((onlyIf_of_true _ _ ?_).trans (judges _))
    rw [Fc4.elapse_ctl, imageReadLimit]
    exact Bool.and_eq_true_iff.2 ⟨Bool.and_eq_true_iff.2 ⟨reads pending, decide_eq_true whole⟩, decide_eq_true inTime⟩
  · show execImageReadTimeout dt s = _
    unfold execImageReadTimeout
    refine rowEffect_of ((onlyIf_of_true _ _ ?_).trans (judges none))
    rw [Fc4.elapse_ctl, imageReadLimit]
    exact Bool.and_eq_true_iff.2 ⟨reads pending, decide_eq_true late⟩
  · intro q
    have stops : p.stopWaitOver = q.preparationEnd := by
      simp only [Fc4.stopWaitOver, Fc4.anyAxisFault, ← Bool.or_assoc]
      rfl
    have becomes : ∀ {u}, q.preparationEnd = u → exec (.stopWaitEnd dt) s = .next { s with part := u } := by
      intro u ends
      refine rowEffect_of ((onlyIf_of_true _ _ ?_).trans (stops.trans ends))
      simp only [Bool.and_eq_true, decide_eq_true_eq]
      exact ⟨⟨⟨receives, starting⟩, stopping⟩, Fc4.bothStopped_of (p := p) x y⟩
    exact ⟨fun pending => becomes (Fc4.preparationEnd_pending pending),
      fun g valid config => becomes (Fc4.preparationEnd_valid rfl valid config),
      fun invalid => becomes (Fc4.preparationEnd_invalid rfl invalid)⟩


/-! ### Little-endian bytes -/

@[simp] theorem leBytes_length (n v : Nat) : (leBytes n v).length = n := by
  induction n generalizing v with
  | zero => rfl
  | succ n ih => simp [leBytes, ih]

theorem byteOf_toNat (v : Nat) : (byteOf v).toNat = v % 256 := by simp [byteOf, BitVec.toNat_ofNat]

/-- Bytes of a number that fits in them stand for it. -/
theorem leValue_leBytes {n v : Nat} (fits : v < 256 ^ n) : leValue (leBytes n v) = v := by
  induction n generalizing v with
  | zero => simp only [Nat.pow_zero, Nat.lt_one_iff] at fits; simp [leBytes, leValue, fits]
  | succ n ih =>
    have rest : v / 256 < 256 ^ n := by rw [Nat.div_lt_iff_lt_mul (by decide)]; rwa [Nat.pow_succ] at fits
    simp only [leBytes, leValue, byteOf_toNat, ih rest]
    omega

theorem leValue_lt (bytes : List Byte) : leValue bytes < 256 ^ bytes.length := by
  induction bytes with
  | nil => simp [leValue]
  | cons b bytes ih =>
    have byte : b.toNat < 256 := b.isLt
    simp only [leValue, List.length_cons, Nat.pow_succ]
    omega

/-- The bytes of the number that bytes stand for. -/
theorem leBytes_leValue (bytes : List Byte) : leBytes bytes.length (leValue bytes) = bytes := by
  induction bytes with
  | nil => rfl
  | cons b bytes ih =>
    have byte : b.toNat < 256 := b.isLt
    have low : byteOf (b.toNat + 256 * leValue bytes) = b := by
      apply BitVec.eq_of_toNat_eq; rw [byteOf_toNat]; omega
    have high : (b.toNat + 256 * leValue bytes) / 256 = leValue bytes := by omega
    simp only [List.length_cons, leValue, leBytes, low, high, ih]

/-- Two bytes are those of the check exactly where they stand for it. -/
theorem crcBytes_eq_iff {bytes check : List Byte} (two : check.length = 2) :
    check = crcBytes bytes ↔ (crc bytes).toNat = leValue check := by
  have fits : (crc bytes).toNat < 256 ^ 2 := (crc bytes).isLt
  constructor
  · rintro rfl; exact (leValue_leBytes fits).symm
  · intro same
    rw [crcBytes, same, ← two, leBytes_leValue]

theorem fieldAt_lt {payload : List Byte} (off len : Nat) : fieldAt payload off len < 256 ^ len := by
  refine (leValue_lt _).trans_le (Nat.pow_le_pow_right (by decide) ?_)
  exact List.length_take_le _ _

/-! ### The configuration image -/

theorem imageChecked_iff {image : List Byte} (whole : image.length = 32) :
    imageChecked image = true ↔ (crc (image.take 30)).toNat = fieldAt image 30 2 := by
  have two : (image.drop 30).length = 2 := by simp [whole]
  have field : fieldAt image 30 2 = leValue (image.drop 30) := by
    rw [fieldAt, List.take_of_length_le (by omega)]
  simp only [imageChecked, whole, decide_true, Bool.true_and, decide_eq_true_eq, field]
  exact crcBytes_eq_iff two

theorem samplesOfCode_eq (c : Nat) : samplesOfCode c = if c ≤ 4 then some (2 ^ c) else none := by
  unfold samplesOfCode
  rcases c with _ | _ | _ | _ | _ | c <;> simp

/-- The bounds that a position allowed by the reach lies in (00). -/
theorem allowed_iff (g : ImageConfig) (p : Pos) : allowed g p = true ↔
    g.reach.xmin + g.fx + g.clearance ≤ p.x ∧ p.x + g.fx + g.clearance ≤ g.reach.xmax ∧
      g.reach.ymin + g.fy + g.clearance ≤ p.y ∧ p.y + g.fy + g.clearance ≤ g.reach.ymax := by
  simp [allowed, and_assoc]

/-- The range table, without the conditions that an allowed haven implies. -/
theorem configInRange_iff {g : ImageConfig} (samples : g.samples ∈ [1, 2, 4, 8, 16]) : configInRange g = true ↔
    2000 ≤ g.fx ∧ g.fx ≤ 80000 ∧ 2000 ≤ g.fy ∧ g.fy ≤ 80000 ∧ g.clearance ≤ 20000 ∧ g.nominal ≤ 40000 ∧
      100 ≤ g.margin ∧ g.margin ≤ 5000 ∧ 200 ≤ g.depth ∧ g.depth ≤ 5000 ∧ 100 ≤ g.overloadLevel ∧
      g.overloadLevel ≤ 3000 ∧ g.stray ≤ 10000000 ∧ g.reach.xmax ≤ 1048575 ∧ g.reach.ymax ≤ 1048575 ∧
      allowed g g.haven = true := by
  simp only [configInRange, boxOrdered, Bool.and_eq_true, decide_eq_true_eq, samples, and_true, allowed_iff]
  have z : zMax = 40000 := rfl
  have c : coordMax = 1048575 := rfl
  omega

/-- Settles O36. -/
theorem validImageMeetsEveryCondition : Obligations.ValidImageMeetsEveryCondition := by
  refine ⟨fun image whole => ?_, fun image part => ?_, fun g pos => ?_⟩
  · intro field g valid
    have fields : imageFields image = if field 25 2 / 8192 ≤ 4 then some g else none := by
      simp only [imageFields, samplesOfCode_eq]
      by_cases code : field 25 2 / 8192 ≤ 4
      · simp only [field] at code; simp only [field, g, code, if_true]
      · simp only [field] at code; simp only [field, code, if_false]
    have samples : field 25 2 / 8192 ≤ 4 → g.samples ∈ [1, 2, 4, 8, 16] := by
      intro code
      have : ∀ c, c ≤ 4 → 2 ^ c ∈ [1, 2, 4, 8, 16] := by decide
      exact this _ code
    refine ⟨fun ⟨checked, code, ranges⟩ => ?_, fun invalid => ?_⟩
    · rw [judgeImage, if_pos ((imageChecked_iff whole).2 checked), fields, if_pos code]
      exact if_pos ((configInRange_iff (samples code)).2 ranges)
    · unfold judgeImage
      split
      · rename_i checked
        rw [fields]
        by_cases code : field 25 2 / 8192 ≤ 4
        · rw [if_pos code]
          exact if_neg fun ranges =>
            invalid ⟨(imageChecked_iff whole).1 checked, code, (configInRange_iff (samples code)).1 ranges⟩
        · rw [if_neg code]
      · rfl
  · simp [judgeImage, imageChecked, part]
  · rw [allowed_iff]
    omega

/-! ### The end of the join window -/

/-- What the end of the join window leaves or sets beside mode and reason: a stop there fills no RELEASE (log 26). -/
structure Stays (s t : Fc4) : Prop where
  view    : t.view = s.view
  heights : t.heights = s.heights
  box     : t.resv.heldBox = s.resv.heldBox
  lines   : t.resv.heldLines = s.resv.heldLines
  join    : t.link.join = s.link.join
  now     : t.now = s.now
  seen    : t.motion.faultSeen = s.motion.faultSeen
  release : t.link.release = s.link.release
  waiting : t.resv.waiting = s.resv.waiting

theorem Stays.refl (s : Fc4) : Stays s s := ⟨rfl, rfl, rfl, rfl, rfl, rfl, rfl, rfl, rfl⟩

theorem Stays.trans {s t u : Fc4} (h : Stays s t) (g : Stays t u) : Stays s u :=
  ⟨g.view.trans h.view, g.heights.trans h.heights, g.box.trans h.box, g.lines.trans h.lines, g.join.trans h.join,
    g.now.trans h.now, g.seen.trans h.seen, g.release.trans h.release, g.waiting.trans h.waiting⟩

theorem Stays.of_steady {s t : Fc4} (h : t.steady = s.steady) (release : t.link.release = s.link.release)
    (waiting : t.resv.waiting = s.resv.waiting) : Stays s t := by
  simp only [Fc4.steady, Link.steady, Motion.steady, Prod.mk.injEq] at h
  exact ⟨by simp only [h], by simp only [h], by simp only [h], by simp only [h], by simp only [h], by simp only [h],
    by simp only [h], release, waiting⟩

@[simp] theorem Link.noteWithdrawal_release (l : Link) (k : FrameKind) : (l.noteWithdrawal k).release = l.release := by
  unfold Link.noteWithdrawal; split <;> rfl

theorem Fc4.endAsk_release (s : Fc4) :
    s.endAsk.link.release = s.link.release ∧ s.endAsk.resv.waiting = s.resv.waiting := by
  unfold Fc4.endAsk; repeat' split
  · exact ⟨Link.noteWithdrawal_release _ _, rfl⟩
  · exact ⟨rfl, rfl⟩
  · exact ⟨rfl, rfl⟩

theorem Fc4.withdrawClaim_release (s : Fc4) :
    s.withdrawClaim.link.release = s.link.release ∧ s.withdrawClaim.resv.waiting = s.resv.waiting := by
  unfold Fc4.withdrawClaim; split
  · obtain ⟨release, waiting⟩ := s.dropClaim.endAsk_release
    exact ⟨release.trans (Link.noteWithdrawal_release _ _), waiting⟩
  · exact ⟨rfl, rfl⟩

/-- The blocks of a stop leave the RELEASE slot and what waits for it. -/
theorem Fc4.stopBlocks_release (s : Fc4) (r : StopReason) :
    (s.stopBlocks r).link.release = s.link.release ∧ (s.stopBlocks r).resv.waiting = s.resv.waiting := by
  have reserved : ∀ u : Fc4, u.stopReservation.link.release = u.link.release ∧
      u.stopReservation.resv.waiting = u.resv.waiting := by
    intro u
    have asked := u.withdrawClaim.endAsk_release
    have claimed := u.withdrawClaim_release
    exact ⟨asked.1.trans claimed.1, asked.2.trans claimed.2⟩
  have paired : ∀ u : Fc4, u.stopPair.link.release = u.link.release ∧ u.stopPair.resv.waiting = u.resv.waiting := by
    intro u
    unfold Fc4.stopPair; split
    · exact ⟨Link.noteWithdrawal_release _ _, rfl⟩
    · exact ⟨rfl, rfl⟩
  have requeued : ∀ u : Fc4, u.requeueTouch.link.release = u.link.release ∧
      u.requeueTouch.resv.waiting = u.resv.waiting := by
    intro u
    unfold Fc4.requeueTouch; split <;> exact ⟨rfl, rfl⟩
  exact ⟨(requeued _).1.trans ((paired _).1.trans (reserved _).1), (requeued _).2.trans ((paired _).2.trans (reserved _).2)⟩

theorem Fc4.stopBlocks_steady (s : Fc4) (r : StopReason) (hr : r ≠ .noReason) : (s.stopBlocks r).steady = s.steady :=
  (({ s with ctl := { s.ctl with mode := .idle } } : Fc4).stopBlocks_flow r hr rfl).steady

theorem Fc4.stopBlocks_stays (s : Fc4) (r : StopReason) (hr : r ≠ .noReason) : Stays s (s.stopBlocks r) :=
  .of_steady (s.stopBlocks_steady r hr) (s.stopBlocks_release r).1 (s.stopBlocks_release r).2

theorem Fc4.chooseMode_stays (s : Fc4) : Stays s s.chooseMode := by
  unfold Fc4.chooseMode; repeat' split
  · exact s.stopBlocks_stays _ (by simp)
  · exact s.stopBlocks_stays _ (by simp)
  · exact s.stopBlocks_stays _ (by simp)
  · exact ⟨rfl, rfl, rfl, rfl, rfl, rfl, rfl, rfl, rfl⟩

theorem Fc4.actOnFaultSeen_stays (s : Fc4) :
    Stays { s with motion := { s.motion with faultSeen := false } } s.actOnFaultSeen := by
  unfold Fc4.actOnFaultSeen; dsimp only; repeat' split
  · exact Fc4.stopBlocks_stays _ _ (by simp)
  · exact ⟨rfl, rfl, rfl, rfl, rfl, rfl, rfl, rfl, rfl⟩
  · exact .refl _
  · exact .refl _

/-- The crowding check at the end of the window (R65). -/
theorem Fc4.crowded_iff {s : Fc4} {b : Box} (held : s.resv.heldBox = some b) : s.crowded = true ↔
    ∃ x ∈ s.view.peers, x.2.presence = .present ∧ ∃ e, effectiveBox s.ctl.side x.2 = some e ∧ overlaps b e = true := by
  simp only [Fc4.crowded, held, List.any_eq_true, Bool.and_eq_true, decide_eq_true_eq, overlapsRecord_iff]

theorem Fc4.chooseMode_cut {s : Fc4} (cut : s.ctl.cutRecorded = true) : s.chooseMode = s.stopBlocks .linkCutoff :=
  if_pos cut

theorem Fc4.chooseMode_dup {s : Fc4} (cut : ¬ s.ctl.cutRecorded = true) (dup : s.ctl.dupRecorded = true) :
    s.chooseMode = s.stopBlocks .dupStation := (if_neg cut).trans (if_pos dup)

theorem Fc4.chooseMode_crowded {s : Fc4} (cut : ¬ s.ctl.cutRecorded = true) (dup : ¬ s.ctl.dupRecorded = true)
    (crowd : s.crowded = true) : s.chooseMode = s.stopBlocks .crowded :=
  (if_neg cut).trans ((if_neg dup).trans (if_pos crowd))

theorem Fc4.chooseMode_idle {s : Fc4} (cut : ¬ s.ctl.cutRecorded = true) (dup : ¬ s.ctl.dupRecorded = true)
    (clear : ¬ s.crowded = true) : s.chooseMode = { s with ctl := { s.ctl with mode := .idle } } :=
  (if_neg cut).trans ((if_neg dup).trans (if_neg clear))

/-- Without a fault seen, or in a stop that no fault overrides, mode and reason stay. -/
theorem Fc4.actOnFaultSeen_ctl {s : Fc4}
    (h : s.motion.faultSeen = false ∨ (s.ctl.mode = .stopped ∧ s.ctl.reason ≠ .crowded)) :
    s.actOnFaultSeen.ctl = s.ctl := by
  unfold Fc4.actOnFaultSeen; dsimp only
  rcases h with h | ⟨mode, reason⟩
  · rw [if_neg (by simp [h])]
  · split
    · rw [if_neg (by simp [mode]), if_neg (by simp [reason])]
    · rfl

/-- A fault seen turns IDLE and CROWDED into AXIS_FAULT (R184). -/
theorem Fc4.actOnFaultSeen_fault {s : Fc4} (seen : s.motion.faultSeen = true)
    (h : s.ctl.mode = .idle ∨ (s.ctl.mode = .stopped ∧ s.ctl.reason = .crowded)) :
    s.actOnFaultSeen.ctl.mode = .stopped ∧ s.actOnFaultSeen.ctl.reason = .axisFault := by
  unfold Fc4.actOnFaultSeen; dsimp only
  rw [if_pos seen]
  rcases h with idle | ⟨mode, reason⟩
  · rw [if_pos idle]; exact Fc4.stopBlocks_mode _ _
  · rw [if_neg (by simp [mode]), if_pos ⟨mode, reason⟩]; exact ⟨mode, rfl⟩

@[simp] theorem Link.noteRefill_release (l : Link) (k : FrameKind) : (l.noteRefill k).release = l.release := by
  unfold Link.noteRefill; split <;> rfl

@[simp] theorem Link.noteRefill_beacon (l : Link) (k : FrameKind) : (l.noteRefill k).beacon = l.beacon := by
  unfold Link.noteRefill; split <;> rfl

@[simp] theorem Link.noteRefill_status (l : Link) (k : FrameKind) : (l.noteRefill k).status = l.status := by
  unfold Link.noteRefill; split <;> rfl

@[simp] theorem Link.noteRefill_beaconDue (l : Link) (k : FrameKind) : (l.noteRefill k).beaconDue = l.beaconDue := by
  unfold Link.noteRefill; split <;> rfl

/-- The first beacon and STATUS are filled, and nothing of what stays changes. -/
theorem Fc4.firstFrames_stays (s : Fc4) (due : Time) : Stays s (s.fillBeacon due).fillStatus :=
  ⟨rfl, rfl, rfl, rfl, by simp [Fc4.fillBeacon, Fc4.fillStatus], rfl, rfl,
    by simp [Fc4.fillBeacon, Fc4.fillStatus, Link.fillBeacon, Link.fillStatus], rfl⟩

theorem Fc4.firstFrames_filled (s : Fc4) (due : Time) : (s.fillBeacon due).fillStatus.link.beacon = true ∧
    (s.fillBeacon due).fillStatus.link.status = true ∧
    (s.fillBeacon due).fillStatus.link.beaconDue = some (due + beaconPeriod) := by
  simp [Fc4.fillBeacon, Fc4.fillStatus, Link.fillBeacon, Link.fillStatus]

/-- The station at the end of its join window, before its mode is chosen. -/
def Fc4.windowClosed (s : Fc4) : Fc4 :=
  { s with resv := { s.resv with heldBox := some (standingBox s.geo (s.ctl.startPos.getD s.here)), heldLines := LineRoles.none }
           link := { s.link with join := .closed } }

theorem Fc4.joinEnd_eq (s : Fc4) :
    s.joinEnd = ((s.windowClosed.chooseMode.actOnFaultSeen).fillBeacon s.now).fillStatus := rfl

theorem Fc4.joinEnd_ctl (s : Fc4) : s.joinEnd.ctl = s.windowClosed.chooseMode.actOnFaultSeen.ctl := rfl

/-- What the end of the window leaves, and the first frames it fills. -/
theorem Fc4.joinEnd_stays (s : Fc4) :
    Stays { s.windowClosed with motion := { s.motion with faultSeen := false } } s.joinEnd := by
  have chosen := s.windowClosed.chooseMode_stays
  have cleared : Stays { s.windowClosed with motion := { s.motion with faultSeen := false } }
      { s.windowClosed.chooseMode with motion := { s.windowClosed.chooseMode.motion with faultSeen := false } } :=
    ⟨chosen.view, chosen.heights, chosen.box, chosen.lines, chosen.join, chosen.now, rfl, chosen.release,
      chosen.waiting⟩
  exact (cleared.trans s.windowClosed.chooseMode.actOnFaultSeen_stays).trans (Fc4.firstFrames_stays _ s.now)

/-- The stop reason and mode that the end of the window leaves (R20, R184). -/
theorem Fc4.joinEnd_chooses (s : Fc4) :
    (s.ctl.cutRecorded = true → s.joinEnd.ctl.mode = .stopped ∧ s.joinEnd.ctl.reason = .linkCutoff) ∧
    (¬ s.ctl.cutRecorded = true → s.ctl.dupRecorded = true →
      s.joinEnd.ctl.mode = .stopped ∧ s.joinEnd.ctl.reason = .dupStation) ∧
    (¬ s.ctl.cutRecorded = true → ¬ s.ctl.dupRecorded = true → s.windowClosed.crowded = true →
      ¬ s.motion.faultSeen = true → s.joinEnd.ctl.mode = .stopped ∧ s.joinEnd.ctl.reason = .crowded) ∧
    (¬ s.ctl.cutRecorded = true → ¬ s.ctl.dupRecorded = true → s.motion.faultSeen = true →
      s.joinEnd.ctl.mode = .stopped ∧ s.joinEnd.ctl.reason = .axisFault) ∧
    (¬ s.ctl.cutRecorded = true → ¬ s.ctl.dupRecorded = true → ¬ s.windowClosed.crowded = true →
      ¬ s.motion.faultSeen = true → s.joinEnd.ctl.mode = .idle ∧ s.joinEnd.ctl.reason = s.ctl.reason) := by
  have stopped := s.windowClosed.stopBlocks_mode
  have seenThere : s.windowClosed.chooseMode.motion.faultSeen = s.motion.faultSeen := s.windowClosed.chooseMode_stays.seen
  rw [s.joinEnd_ctl]
  refine ⟨fun cut => ?_, fun cut dup => ?_, fun cut dup crowd seen => ?_, fun cut dup seen => ?_, fun cut dup clear seen => ?_⟩
  · rw [Fc4.chooseMode_cut (s := s.windowClosed) cut,
      Fc4.actOnFaultSeen_ctl (.inr ⟨(stopped _).1, by simp [(stopped _).2]⟩)]
    exact stopped _
  · rw [Fc4.chooseMode_dup (s := s.windowClosed) cut dup,
      Fc4.actOnFaultSeen_ctl (.inr ⟨(stopped _).1, by simp [(stopped _).2]⟩)]
    exact stopped _
  · rw [Fc4.actOnFaultSeen_ctl (.inl (by rw [seenThere]; simpa using seen)),
      Fc4.chooseMode_crowded (s := s.windowClosed) cut dup crowd]
    exact stopped _
  · refine Fc4.actOnFaultSeen_fault (seenThere.trans seen) ?_
    by_cases crowd : s.windowClosed.crowded = true
    · rw [Fc4.chooseMode_crowded (s := s.windowClosed) cut dup crowd]
      exact .inr (stopped _)
    · rw [Fc4.chooseMode_idle (s := s.windowClosed) cut dup crowd]
      exact .inl rfl
  · rw [Fc4.actOnFaultSeen_ctl (.inl (by rw [seenThere]; simpa using seen)),
      Fc4.chooseMode_idle (s := s.windowClosed) cut dup clear]
    exact ⟨rfl, rfl⟩

/-- Settles O37. -/
theorem joinWindowEndChoosesTheMode : Obligations.JoinWindowEndChoosesTheMode := by
  intro s dt due receives starting running expired box crowd cut dup seen
  have isOver : ((s.part.elapse dt).receiving && decide ((s.part.elapse dt).ctl.mode = .starting) &&
      (s.part.elapse dt).joinOver) = true := by
    have timer : (s.part.elapse dt).link.join = .running due := running
    simp only [Bool.and_eq_true, decide_eq_true_eq, Fc4.joinOver, timer]
    exact ⟨⟨receives, starting⟩, expired⟩
  have taken : exec (.joinWindowEnd dt) s = .next { s with part := (s.part.elapse dt).joinEnd } := by
    show execJoinWindowEnd dt s = _
    unfold execJoinWindowEnd
    exact rowEffect_of (onlyIf_of_true _ _ isOver)
  have stays := (s.part.elapse dt).joinEnd_stays
  obtain ⟨beacon, status, next⟩ := (s.part.elapse dt).windowClosed.chooseMode.actOnFaultSeen.firstFrames_filled
    (s.part.elapse dt).now
  obtain ⟨onCut, onDup, onCrowd, onFault, onIdle⟩ := (s.part.elapse dt).joinEnd_chooses
  have isCrowd : (s.part.elapse dt).windowClosed.crowded = true ↔ crowd := Fc4.crowded_iff rfl
  rw [isCrowd] at onCrowd onIdle
  exact ⟨_, taken, stays.box, stays.lines, stays.join, beacon, status, next, stays.view, stays.heights, stays.seen,
    stays.release, stays.waiting, onCut, onDup, onCrowd, onFault, onIdle⟩

end Sys2Proof.Machine
end

section
/-! PROOF. The touch list: LOAD and the end of a touch (chapter 04). O38, O39, O40. -/

namespace Sys2Proof.Machine

/-! ### LOAD records -/

theorem kindOfRecord_other {c : Nat} (h : c = 0 ∨ 3 < c) : kindOfRecord c = none := by
  rcases c with _ | _ | _ | _ | c
  · rfl
  all_goals first | omega | simp [kindOfRecord]

/-- Role, partner and tag of a CONT or ISO record hold no meaning exactly here (R70). -/
theorem pairTermsOf_eq_none {own : Station} {r : LoadRecord} : pairTermsOf own r = none ↔
    r.roleCode = 0 ∨ 2 < r.roleCode ∨ r.tag = 0 ∨ r.partner = 0 ∨ 15 < r.partner ∨ r.partner = own.val := by
  have coded : ∀ role, roleOfCode r.roleCode = some (some role) → (pairTermsOf own r = none ↔
      r.tag = 0 ∨ r.partner = 0 ∨ 15 < r.partner ∨ r.partner = own.val) := by
    intro role h; simp only [pairTermsOf, h]; split <;> simp_all
  rcases code : r.roleCode with _ | _ | _ | c
  · simp [pairTermsOf, code, roleOfCode]
  · rw [coded .source (by rw [code]; rfl)]; simp
  · rw [coded .sense (by rw [code]; rfl)]; simp
  · simp [pairTermsOf, code, roleOfCode]

/-- The fields of a record that are bad for any kind (R70). -/
def UnsoundRecord (r : LoadRecord) (kind : TouchKind) : Prop :=
  r.touchId = 0 ∨ r.high < r.low ∨ (r.hintPresent = true ∧ hintLimit kind < r.hint) ∨
    (r.approachPresent = true ∧ zMax < r.approach)

/-- The model's test of those fields, and the entry of a record that passes it. -/
def soundRecord (r : LoadRecord) (kind : TouchKind) : Bool :=
  !decide (r.touchId = 0) && decide (r.low ≤ r.high) &&
    decide ((if r.hintPresent then some r.hint else none).getD 0 ≤ hintLimit kind) &&
    decide ((if r.approachPresent then some r.approach else none).getD 0 ≤ zMax)

def recordEntry (r : LoadRecord) (kind : TouchKind) (terms : Option PairTerms) : Entry :=
  { id := r.touchId, pad := r.pad, kind, terms, low := r.low, high := r.high
    hint := if r.hintPresent then some r.hint else none, approach := if r.approachPresent then some r.approach else none
    deferCount := 0, st := .queued, held := none }

theorem soundRecord_iff (r : LoadRecord) (kind : TouchKind) : soundRecord r kind = true ↔ ¬ UnsoundRecord r kind := by
  have bound : ∀ (p : Bool) (v m : Nat), (if p then some v else none).getD 0 ≤ m ↔ (p = true → v ≤ m) := by
    intro p v m; cases p <;> simp
  simp only [soundRecord, UnsoundRecord, Bool.and_eq_true, Bool.not_eq_true', decide_eq_true_eq, decide_eq_false_iff_not,
    not_or, not_and, not_lt, bound, and_assoc]

theorem entryOf_other {own : Station} {r : LoadRecord} (other : kindOfRecord r.kindCode = none) :
    entryOf own r = none := by rw [entryOf, other]

theorem entryOf_capr {own : Station} {r : LoadRecord} (coded : kindOfRecord r.kindCode = some .capr) :
    entryOf own r = if soundRecord r .capr then
      (if r.roleCode = 0 ∧ r.partner = 0 ∧ r.tag = 0 then some (recordEntry r .capr none) else none) else none := by
  rw [entryOf, coded]; rfl

theorem entryOf_pair {own : Station} {r : LoadRecord} {kind : TouchKind} (coded : kindOfRecord r.kindCode = some kind)
    (pair : kind ≠ .capr) :
    entryOf own r = if soundRecord r kind then (pairTermsOf own r).map (fun t => recordEntry r kind (some t)) else none := by
  rw [entryOf, coded]
  cases kind with
  | capr => exact absurd rfl pair
  | cont | iso => rfl

theorem entryOf_capr_eq_none {own : Station} {r : LoadRecord} (coded : kindOfRecord r.kindCode = some .capr) :
    entryOf own r = none ↔ UnsoundRecord r .capr ∨ r.roleCode ≠ 0 ∨ r.partner ≠ 0 ∨ r.tag ≠ 0 := by
  rw [entryOf_capr coded]
  by_cases bad : UnsoundRecord r .capr
  · simp [bad, soundRecord_iff]
  · simp only [soundRecord_iff, bad, not_false_eq_true, if_true, false_or]
    split
    · simp only [reduceCtorEq, false_iff]; omega
    · simp only [true_iff]; omega

theorem entryOf_pair_eq_none {own : Station} {r : LoadRecord} {kind : TouchKind}
    (coded : kindOfRecord r.kindCode = some kind) (pair : kind ≠ .capr) :
    entryOf own r = none ↔ UnsoundRecord r kind ∨ pairTermsOf own r = none := by
  rw [entryOf_pair coded pair]
  by_cases bad : UnsoundRecord r kind <;> simp [bad, soundRecord_iff]

/-- The entry of a record joins the list as QUEUED. -/
theorem entryOf_queued {own : Station} {r : LoadRecord} {e : Entry} (h : entryOf own r = some e) : e.st = .queued := by
  rcases coded : kindOfRecord r.kindCode with _ | kind
  · rw [entryOf_other coded] at h; cases h
  · by_cases capr : kind = .capr
    · subst capr
      rw [entryOf_capr coded] at h
      split at h
      · split at h <;> cases h; rfl
      · cases h
    · rw [entryOf_pair coded capr] at h
      split at h
      · obtain ⟨_, _, rfl⟩ := Option.map_eq_some_iff.1 h; rfl
      · cases h

/-- Settles O38, by the record's kind code. -/
theorem loadRecordIsBadWhenItsFieldsAre : Obligations.LoadRecordIsBadWhenItsFieldsAre := by
  intro own r _
  have ceiling : zMax = 40000 := rfl
  rcases (by omega : (r.kindCode = 0 ∨ 3 < r.kindCode) ∨ r.kindCode = 1 ∨ r.kindCode = 2 ∨ r.kindCode = 3) with
    other | cont | iso | capr
  · have none : entryOf own r = none := entryOf_other (kindOfRecord_other other)
    simp only [none, true_iff]
    exact other.imp_right .inl
  · rw [entryOf_pair_eq_none (kind := .cont) (by rw [cont]; rfl) (by simp), pairTermsOf_eq_none]
    simp only [UnsoundRecord, hintLimit, ceiling, cont]
    grind
  · rw [entryOf_pair_eq_none (kind := .iso) (by rw [iso]; rfl) (by simp), pairTermsOf_eq_none]
    simp only [UnsoundRecord, hintLimit, ceiling, iso]
    grind
  · rw [entryOf_capr_eq_none (by rw [capr]; rfl)]
    simp only [UnsoundRecord, hintLimit, ceiling, capr]
    grind

/-! ### Judging and loading -/

theorem Fc4.loadRecord_refused {q : Fc4} {r : LoadRecord} {code : RefusalCode} (h : q.judgeRecord r = .error code) :
    q.loadRecord r = { q with results := q.results.refuse r.touchId code } := by rw [Fc4.loadRecord, h]

theorem Fc4.loadRecord_taken {q : Fc4} {r : LoadRecord} {e : Entry} (h : q.judgeRecord r = .ok e) :
    q.loadRecord r = { q with work := { q.work with list := q.work.list ++ [e] } } := by rw [Fc4.loadRecord, h]; rfl

/-- Settles O39. -/
theorem loadJudgesItsRecordsInOrder : Obligations.LoadJudgesItsRecordsInOrder := by
  intro s dt target records heard p row
  have taken : row = .next { s with part := (if target = p.own then p.load records else p).recheck } :=
    sequencerRow_heard heard _
  have number : s.part.own = p.own := rfl
  rw [number]
  refine ⟨fun aimed mode => ?_, fun aimed starting fault => ?_, fun away => ?_, fun x id code => ?_, fun q r => ?_⟩
  · rw [taken, if_pos aimed]
    simp only [Fc4.load, if_pos (show p.ctl.mode = .starting ∨ p.ctl.mode = .cfgFault from mode)]
  · have ready : ¬ (p.ctl.mode = .starting ∨ p.ctl.mode = .cfgFault) := not_or.2 ⟨starting, fault⟩
    rw [taken, if_pos aimed]
    simp only [Fc4.load, if_neg ready]
  · rw [taken, if_neg away]
  · refine ⟨fun room => if_pos room, fun full below => ?_, fun full top => ?_⟩
    · rw [Results.refuse, if_neg (by simpa [refusalMax] using full), Nat.min_eq_right (by omega)]
    · rw [Results.refuse, if_neg (by simpa [refusalMax] using full), top]
      cases x; simp_all
  · intro refused sameTag
    refine ⟨fun bad => Fc4.loadRecord_refused (by rw [Fc4.judgeRecord, bad]), fun e entry => ⟨fun far => ?_, fun near full => ?_,
      fun near room same => ?_, fun near room new paired same => ?_, fun near room new free => ?_⟩⟩
    · refine Fc4.loadRecord_refused ?_
      rw [Fc4.judgeRecord, entry]
      simp [far]
    · refine Fc4.loadRecord_refused ?_
      rw [Fc4.judgeRecord, entry]
      simp [near, listMax, full]
    · refine Fc4.loadRecord_refused ?_
      rw [Fc4.judgeRecord, entry]
      simp [near, listMax, Nat.not_le.2 room, same]
    · refine Fc4.loadRecord_refused ?_
      rw [Fc4.judgeRecord, entry]
      simp only [sameTag] at same
      have fresh : ¬ ∃ o ∈ q.work.list, o.id = e.id := fun ⟨o, listed, again⟩ => new o listed again
      simp [near, listMax, Nat.not_le.2 room, fresh, paired, same]
    · refine ⟨Fc4.loadRecord_taken ?_, entryOf_queued entry⟩
      rw [Fc4.judgeRecord, entry]
      have fresh : ¬ ∃ o ∈ q.work.list, o.id = e.id := fun ⟨o, listed, again⟩ => new o listed again
      have untagged : ¬ (e.terms.isSome = true ∧ ∃ o ∈ q.work.list, o.terms.map PairTerms.tag = e.terms.map PairTerms.tag) :=
        fun ⟨paired, o, listed, again⟩ => free paired o listed again
      simp [near, listMax, Nat.not_le.2 room, fresh, untagged]

/-! ### The result of a touch -/

@[simp] theorem Fc4.testPacking_work (s : Fc4) : s.testPacking.work = s.work := by
  unfold Fc4.testPacking; split <;> rfl

@[simp] theorem Fc4.testPacking_pair (s : Fc4) : s.testPacking.pair = s.pair := by
  unfold Fc4.testPacking; split <;> rfl

/-- Four records in the queue fill the RESULT slot (R168). -/
theorem Fc4.testPacking_packed {s : Fc4} (four : 4 ≤ s.results.queue.length) : s.testPacking.link.result = true := by
  have trigger : s.packingTrigger = true := by
    unfold Fc4.packingTrigger
    split
    · simp_all
    · simp [four]
  cases filled : s.link.result <;> simp [Fc4.testPacking, Link.fillResult, filled, trigger]

theorem isVerdict_iff (o : TouchOutcome) : isVerdict o = true ↔ o = .pass ∨ o = .failLow ∨ o = .failHigh := by
  cases o <;> simp [isVerdict]

/-- The touch that ends with room in the queue and no result held back (R75). -/
theorem Fc4.produceResult_queued {s : Fc4} (id : Nat) (r : ResultRecord) (room : s.results.queue.length < 64)
    (free : ∀ x ∈ s.work.list, x.st ≠ .finished) :
    s.produceResult id r = (s.mapList (removeEntry id)).joinQueue r := by
  rw [Fc4.produceResult, if_pos]
  simpa [Fc4.queueRoom, queueMax, room, isFinished] using free

theorem Fc4.produceResult_held {s : Fc4} (id : Nat) (r : ResultRecord)
    (full : 64 ≤ s.results.queue.length ∨ ∃ x ∈ s.work.list, x.st = .finished) :
    s.produceResult id r = s.mapList (setEntry id (fun e => { e with st := .finished, held := some r })) := by
  rw [Fc4.produceResult, if_neg]
  simp only [Bool.and_eq_true, Fc4.queueRoom, queueMax, decide_eq_true_eq, Bool.not_eq_true', List.any_eq_false, isFinished]
  rintro ⟨room, free⟩
  rcases full with full | ⟨x, listed, held⟩
  · exact Nat.not_lt.2 full (of_decide_eq_true room)
  · exact free x listed held

/-- Settles O40. -/
theorem endedTouchGivesItsResult : Obligations.EndedTouchGivesItsResult := by
  intro p o e t active touch verdict u
  have ended : u = p.clearTouch.produceResult e.id (buildResult e o t.height t.meas) := by
    simp only [u, Fc4.finishTouch, active, touch]
  refine ⟨buildResult e o t.height t.meas, rfl, rfl, rfl, rfl, rfl, fun passed => ?_, fun none => ?_, ?_, ?_,
    fun room free => ?_, fun full => ?_⟩
  · have judged := (isVerdict_iff o).2 passed
    refine ⟨by simp [buildResult, judged], fun m given => by simp [buildResult, judged, given]⟩
  · have unjudged : isVerdict o = false := by simpa using mt (isVerdict_iff o).1 none
    exact ⟨by simp [buildResult, unjudged], by simp [buildResult, unjudged, MeasFlags.none]⟩
  · rw [ended, Fc4.produceResult]; split
    · simp [Fc4.joinQueue, Fc4.mapList, Fc4.clearTouch]
    · rfl
  · rw [ended, Fc4.produceResult]; split
    · simp [Fc4.joinQueue, Fc4.mapList, Fc4.clearTouch]
    · rfl
  · rw [ended, Fc4.produceResult_queued e.id _ (s := p.clearTouch) room free]
    refine ⟨by simp [Fc4.joinQueue, Fc4.mapList, Fc4.clearTouch], by simp [Fc4.joinQueue, Fc4.mapList, Fc4.clearTouch, removeEntry],
      fun four => ?_⟩
    exact Fc4.testPacking_packed (by simpa [Fc4.mapList, Fc4.clearTouch] using four)
  · rw [ended, Fc4.produceResult_held e.id _ (s := p.clearTouch) full]
    exact ⟨rfl, rfl, rfl⟩

end Sys2Proof.Machine
end

section
/-! PROOF. The drives (chapter 06): commands, reports, the ends of a move and of a stop, and what a RELEASE states. O41 to O44. -/

namespace Sys2Proof.Machine

/-- Settles O41. -/
theorem permittedMoveIsCommanded : Obligations.PermittedMoveIsCommanded := by
  intro s dt m permitted standing raised up noFaultX noFaultY p
  have canMove : (s.part.elapse dt).canMove = true := by
    simp [Fc4.canMove, Fc4.anyAxisFault, standing, raised, up, noFaultX, noFaultY]
  show execMoveCommand dt s = _
  unfold execMoveCommand
  refine rowEffect_of ?_
  simp only [show (s.part.elapse dt).motion.permitted = some m from permitted]
  exact onlyIf_of_true _ _ canMove

/-! ### Drive reports -/

/-- The position is outside the allowed interval of its axis (R113). -/
theorem Motion.allowedAt_eq_false {m : Motion} {a : Axis} {v : Nat} : m.allowedAt a v = false ↔
    (∃ mv, m.axis = .moving ∧ m.move = some mv ∧ between (along a mv.p) (along a mv.q) v = false) ∨
    (∃ mv f, m.axis = .stopping ∧ m.move = some mv ∧ m.stopFrom = some f ∧
      between (along a f) (along a mv.q) v = false) ∨
    (m.axis = .standing ∧ v ≠ (m.axisRec a).pos) := by
  unfold Motion.allowedAt
  cases axis : m.axis with
  | standing => simp
  | moving => cases m.move <;> simp
  | stopping => cases m.move <;> cases m.stopFrom <;> simp

/-- The reports that are irregular (R113). -/
theorem Motion.irregular_iff {m : Motion} {a : Axis} {r : AxisReport} : m.irregular a r = true ↔
    r.fault = true ∨ (m.axis = .standing ∧ r.inPosition = false) ∨
    (∃ mv, m.axis = .moving ∧ m.move = some mv ∧ r.inPosition = true ∧ r.pos ≠ along a mv.q) ∨
    ((m.axisRec a).fault = false ∧ m.allowedAt a r.pos = false) := by
  unfold Motion.irregular
  cases axis : m.axis <;> cases move : m.move <;>
    simp only [Bool.or_eq_true, Bool.and_eq_true, Bool.not_eq_true', decide_eq_false_iff_not, reduceCtorEq, Option.some.injEq, true_and, false_and, and_false, exists_false, false_or, or_assoc, exists_eq_left',
      Bool.false_eq_true, decide_true, decide_false, ne_eq]

theorem Fc4.axisFaulted_working {u : Fc4} (mode : working u.ctl.mode = true) : u.axisFaulted = u.enterStopped .axisFault := by
  unfold Fc4.axisFaulted
  split <;> simp_all [working]

theorem Fc4.axisFaulted_stopped {u : Fc4} (mode : u.ctl.mode = .stopped) : u.axisFaulted =
    if u.ctl.reason ∈ [.axisFault, .linkCutoff, .dupStation] then u else u.reasonAxisFault := by
  simp [Fc4.axisFaulted, mode]

/-- Settles O42. -/
theorem axisReportsAreJudged : Obligations.AxisReportsAreJudged := by
  intro s dt a r p old fault rec' q
  refine ⟨?_, ?_⟩
  · rw [Motion.irregular_iff, Motion.allowedAt_eq_false]
  intro tells
  have told : p.tellsFault a r = true ↔ tells := by
    simp only [tells, Fc4.tellsFault, Bool.and_eq_true, Bool.or_eq_true, Bool.not_eq_true', decide_eq_true_eq]
    rfl
  have record : { p with motion := p.motion.takeReport a r } = q := by cases a <;> rfl
  have becomes : ∀ t, (if p.receiving && p.tellsFault a r then q.axisFaulted else q) = t →
      exec (.axisReport dt a r) s = .next { s with part := t } := by
    intro t h
    show execAxisReport dt a r s = _
    unfold execAxisReport
    refine rowEffect_of ?_
    rw [← h, ← record]
  refine ⟨fun untold => becomes _ (if_neg ?_), fun receives tell => ?_⟩
  · rw [Bool.and_eq_true, told]
    rintro ⟨receives, tell⟩
    rcases untold with deaf | silent
    · exact absurd (receives.symm.trans deaf) (by decide)
    · exact silent tell
  · have acts : ∀ t, q.axisFaulted = t → exec (.axisReport dt a r) s = .next { s with part := t } := fun t h =>
      becomes t (by rw [if_pos (Bool.and_eq_true _ _ ▸ ⟨receives, told.2 tell⟩)]; exact h)
    have mode : q.ctl = s.part.ctl := rfl
    refine ⟨fun starting => acts _ ?_, fun fault => acts _ ?_, fun work => acts _ ?_, fun stopped final => acts _ ?_,
      fun stopped open' => acts _ ?_⟩
    · simp only [Fc4.axisFaulted, mode, starting]
    · simp only [Fc4.axisFaulted, mode, fault]
    · exact Fc4.axisFaulted_working work
    · exact (Fc4.axisFaulted_stopped (u := q) stopped).trans (if_pos final)
    · exact (Fc4.axisFaulted_stopped (u := q) stopped).trans (if_neg open')

/-! ### RELEASE -/

theorem noLines_iff (r : LineRoles) : noLines r = true ↔ r = ⟨none, none⟩ := by
  cases r; simp [noLines]

theorem Fc4.fillReleaseFor_of {u : Fc4} {cause : ReleaseCause} {f : ReleaseFill} (h : u.releaseContents cause = some f) :
    u.fillReleaseFor cause = { u with link := u.link.fillRelease f } := by rw [Fc4.fillReleaseFor, h]

/-- A CLAIM of this station is on the line. -/
theorem Link.sending_claim_iff (l : Link) : l.sending .claim = true ↔ ∃ f c, l.onLine = some f ∧ f.content = .claim c := by
  unfold Link.sending
  cases l.onLine with
  | none => simp
  | some f => cases content : f.content <;> simp [content, OnAir.kind]

@[simp] theorem Fc4.releaseDue_work (u : Fc4) (c : ReleaseCause) : (u.releaseDue c).work = u.work := by
  unfold Fc4.releaseDue Fc4.fillReleaseFor; split
  · rfl
  · split <;> rfl

@[simp] theorem Fc4.releaseDue_pair (u : Fc4) (c : ReleaseCause) : (u.releaseDue c).pair = u.pair := by
  unfold Fc4.releaseDue Fc4.fillReleaseFor; split
  · rfl
  · split <;> rfl

@[simp] theorem Fc4.releaseDue_yieldDue (u : Fc4) (c : ReleaseCause) : (u.releaseDue c).resv.yieldDue = u.resv.yieldDue := by
  unfold Fc4.releaseDue Fc4.fillReleaseFor; split
  · rfl
  · split <;> rfl

/-- Settles O44. -/
theorem carriageStandsAndDescentIsHanded : Obligations.CarriageStandsAndDescentIsHanded := by
  refine ⟨fun s dt stopped stopping x y => ?_, fun p e => rfl, fun q => ?_⟩
  · intro p
    have stands : (decide (p.ctl.mode = .stopped) && decide (p.motion.axis = .stopping) && p.bothStopped) = true := by
      simp only [Bool.and_eq_true, decide_eq_true_eq]
      exact ⟨⟨stopped, stopping⟩, Fc4.bothStopped_of (p := p) x y⟩
    show execCarriageStopped dt s = _
    unfold execCarriageStopped
    exact rowEffect_of (onlyIf_of_true _ _ stands)
  · intro atHaven held none' filled
    have flag : q.atHavenFlag = atHaven := by
      rw [Bool.eq_iff_iff, Fc4.atHavenFlag_iff]; simp [atHaven]
    have due : ∀ cause (u : Fc4), u.releaseContents cause = q.releaseContents cause →
        u.fillReleaseFor cause = filled u cause := by
      intro cause u same
      cases contents : q.releaseContents cause <;> simp only [filled, Fc4.fillReleaseFor, same, contents]
    refine ⟨fun answer => ?_, fun same => ?_, fun differs => ?_, ?_, fun lines => ?_, ?_, fun faulted bare => ?_,
      fun faulted lines => ?_, fun sound same bare => ?_, fun sound differs => ?_, fun cause => ⟨fun claim => ?_, fun other => ?_,
      fun waits => ?_⟩, fun none => ?_, fun f => ?_⟩
    · simp only [Fc4.releaseContents, flag]; exact ⟨trivial, rfl, trivial⟩
    · simp only [Fc4.releaseContents, if_pos same]
    · simp only [Fc4.releaseContents, if_neg differs, flag]
    · simp only [Fc4.releaseContents, flag]; rfl
    · simp only [Fc4.releaseContents, flag]
    · simp only [Fc4.releaseContents, flag]; rfl
    · simp only [Fc4.releaseContents, if_pos faulted, if_pos ((noLines_iff _).2 bare)]
    · simp only [Fc4.releaseContents, if_pos faulted, if_neg (mt (noLines_iff _).1 lines), flag]; rfl
    · simp [Fc4.releaseContents, sound, same, (noLines_iff _).2 bare]
    · simp only [Fc4.releaseContents, sound, Bool.false_eq_true, if_false, noLines_iff]
      rw [if_neg differs, flag]; rfl
    · exact if_pos ((Link.sending_claim_iff _).2 claim)
    · refine (if_neg ?_).trans (due cause q rfl)
      exact fun sending => by obtain ⟨f, c, line, content⟩ := (Link.sending_claim_iff _).1 sending; exact other f c line content
    · rw [Fc4.flushRelease, waits]
      exact due cause _ rfl
    · rw [Fc4.flushRelease, none]
    · simp [Link.fillRelease]

/-! ### The end of a move -/

theorem Fc4.permitMove_touch (q : Fc4) (target : Pos) : q.permitMove .touchList target =
    { q with motion := { q.motion with permitted := some ⟨target, .touch⟩ }
             work := { q.work with touch := q.work.touch.map (fun t => { t with stage := .move }) } } := rfl

/-- A new claim takes over the blocked time of the one it replaces, where both are of one requester (R44). -/
theorem Fc4.createClaim_eq (q : Fc4) (c : Claim) : q.createClaim c = ({ q.withdrawClaim with resv := { q.withdrawClaim.resv with
    claim := some c, blockedSince := if q.resv.claim.map Claim.who = some c.who then q.resv.blockedSince else none
    recheckDue := none } }).examine := by
  unfold Fc4.createClaim
  cases q.resv.claim <;> simp

/-- What the station will hold, by the RELEASE that waits or is filled (R42, R43, log 24). -/
theorem Fc4.coming_of_waiting {q : Fc4} {cause : ReleaseCause} {f : ReleaseFill} (waits : q.resv.waiting = some cause)
    (fills : q.releaseContents cause = some f) : q.comingBox = some f.box ∧ q.comingLines = f.lines := by
  simp [Fc4.comingBox, Fc4.comingLines, Fc4.pendingRelease, waits, fills]

theorem Fc4.pendingRelease_of_still {q : Fc4}
    (still : ∀ cause, q.resv.waiting = some cause → q.releaseContents cause = none) : q.pendingRelease = q.link.release := by
  unfold Fc4.pendingRelease
  cases waits : q.resv.waiting with
  | none => rfl
  | some cause => simp [still cause waits]

/-- Settles O43. -/
theorem moveEndGoesOn : Obligations.MoveEndGoesOn := by
  refine ⟨fun s dt m moving move x y => ?_, fun q => ⟨fun o out => ?_, fun out => ?_⟩, fun q who target => ?_⟩
  · intro p q atHaven row
    have arrived : p.arrivedMove = some m := by
      have moving : p.motion.axis = .moving := moving
      have move : p.motion.move = some m := move
      have both : (axisArrived p.motion.ax m.q.x && axisArrived p.motion.ay m.q.y) = true := by
        rw [Bool.and_eq_true]; exact ⟨x, y⟩
      simp [Fc4.arrivedMove, moving, move, Option.filter, both]
    have ends : ∀ t, p.moveEnds m = t → row = .next { s with part := t } := by
      intro t h
      show execMoveEnd dt s = _
      unfold execMoveEnd
      exact rowEffect_of (by rw [arrived]; exact h)
    have haven : q.yieldArrives = true ↔ atHaven := by
      simp only [Fc4.yieldArrives, Bool.and_eq_true, decide_eq_true_eq]; rfl
    have parked : ({ q with motion := { q.motion with park := false } } : Fc4).yieldArrives = q.yieldArrives := rfl
    have touch : m.purpose = .touch → p.moveEnds m = q.touchMoveEnds := fun h => by rw [Fc4.moveEnds, h]
    have park : m.purpose = .park → p.moveEnds m = q.parkMoveEnds := fun h => by rw [Fc4.moveEnds, h]
    refine ⟨fun h => ends _ ?_, fun h there => ends _ ?_, fun h away => ends _ ?_, fun h there => ends _ ?_,
      fun h away o out => ends _ ?_, fun h away out e active => ⟨fun due => ends _ ?_, fun idle => ends _ ?_⟩⟩
    · rw [Fc4.moveEnds, h]
    · rw [park h, Fc4.parkMoveEnds, parked, if_pos (haven.2 there)]
    · rw [park h, Fc4.parkMoveEnds, parked, if_neg (mt haven.1 away)]
    · rw [touch h, Fc4.touchMoveEnds, if_pos (haven.2 there)]
    · rw [touch h, Fc4.touchMoveEnds, if_neg (mt haven.1 away)]
      simp only [Fc4.releaseDue_pair, show q.pair.rdv.bind Rendezvous.outcome = some o from out]
    · rw [touch h, Fc4.touchMoveEnds, if_neg (mt haven.1 away)]
      simp only [Fc4.releaseDue_pair, show q.pair.rdv.bind Rendezvous.outcome = none from out, Fc4.activeEntry,
        Fc4.releaseDue_work, show q.work.list.find? _ = some e from active, Fc4.releaseDue_yieldDue,
        show q.resv.yieldDue = true from due, if_true]
    · rw [touch h, Fc4.touchMoveEnds, if_neg (mt haven.1 away)]
      simp only [Fc4.releaseDue_pair, show q.pair.rdv.bind Rendezvous.outcome = none from out, Fc4.activeEntry,
        Fc4.releaseDue_work, show q.work.list.find? _ = some e from active, Fc4.releaseDue_yieldDue,
        show q.resv.yieldDue = false from idle, Bool.false_eq_true, if_false]
  · rw [Fc4.yieldEndsTouch, out]
  · rw [Fc4.yieldEndsTouch, out]
  · intro g box since permits
    have test : (q.comingBox.map (inside box)).getD false = true ↔ permits := by
      cases coming : q.comingBox <;> simp [permits, coming]
    refine ⟨fun permit => if_pos (test.2 permit), fun block => ?_, fun cause f => Fc4.coming_of_waiting, fun still => ?_,
      ?_⟩
    · refine (if_neg (mt test.1 block)).trans ?_
      exact q.createClaim_eq _
    · simp only [Fc4.comingBox, Fc4.comingLines, Fc4.pendingRelease_of_still still]
      exact ⟨fun f filled => by simp [filled], fun empty => by simp [empty]⟩
    · intro given
      exact ⟨by rintro rfl; rfl, by rintro rfl; rfl, by rintro rfl; rfl⟩

end Sys2Proof.Machine
end

section
/-! PROOF. Descent, search, touchdown, failed contact and lift (chapter 06), and what a measurement begins with or
leaves at its abort (chapter 08). O45 to O48. -/

namespace Sys2Proof.Machine

/-! ### Descent and search -/

theorem Fc4.beginDescent_deep {p : Fc4} {pad : Pos} {h : Nat} (deep : p.geo.margin < h) : p.beginDescent pad h =
    { p with motion := { p.motion with descent := some ⟨pad, h, h - p.geo.margin, min 40000 (h + p.geo.depth)⟩, handed := none
                                       filter := 0, zState := .fastDescent } } := by
  have far : fastTarget p.geo h ≠ 0 := by unfold fastTarget; omega
  simp only [Fc4.beginDescent, if_neg far]
  rfl

theorem Fc4.beginDescent_shallow {p : Fc4} {pad : Pos} {h : Nat} (shallow : h ≤ p.geo.margin) : p.beginDescent pad h =
    { p with motion := { p.motion with descent := some ⟨pad, h, h - p.geo.margin, min 40000 (h + p.geo.depth)⟩, handed := none
                                       filter := 0, zState := .search, z := 0, nextSample := p.now + us 20 } } := by
  have near : fastTarget p.geo h = 0 := by unfold fastTarget; omega
  simp only [Fc4.beginDescent, if_pos near]
  rfl

/-- Settles O45. -/
theorem descentSearchesWithTheContactFilter : Obligations.DescentSearchesWithTheContactFilter := by
  intro s dt p
  refine ⟨?_, fun d fast descent => ?_, fun asserted d search descent above few due => ?_,
    fun asserted landed unreported few due => ?_⟩
  · intro pad h handed standing here raised empty up noFaultX noFaultY m
    have can : p.canDescend pad = true := by
      simp only [Fc4.canDescend, Fc4.anyAxisFault, Bool.and_eq_true, Bool.not_eq_true', Bool.or_eq_false_iff, decide_eq_true_eq,
        Option.isNone_iff_eq_none]
      exact ⟨⟨⟨⟨⟨standing, here⟩, raised⟩, empty⟩, up⟩, noFaultX, noFaultY⟩
    have begins : exec (.descentBegin dt) s = .next { s with part := p.beginDescent pad h } := by
      show execDescentBegin dt s = _
      unfold execDescentBegin
      refine rowEffect_of ?_
      rw [show s.part.elapse dt = p from rfl, show p.motion.handed = some (pad, h) from handed]
      exact onlyIf_of_true _ _ can
    exact ⟨fun deep => by rw [begins, Fc4.beginDescent_deep deep], fun shallow => by rw [begins, Fc4.beginDescent_shallow shallow]⟩
  · show execFastTargetReached dt s = _
    unfold execFastTargetReached
    refine rowEffect_of ?_
    rw [show s.part.elapse dt = p from rfl, show p.motion.zState = .fastDescent from fast,
      show p.motion.descent = some d from descent]
    simp only [Motion.beginSearch, show p.motion.descent = some d from descent]
    rfl
  · have search : p.motion.zState = .search := search
    have sampled : p.motion.sampleDue p.now = true := by
      have limit : p.motion.limit = d.limit := by
        rw [Motion.limit, show p.motion.descent = some d from descent]; rfl
      simp only [Motion.sampleDue, Bool.and_eq_true, Bool.or_eq_true, decide_eq_true_eq, limit]
      exact ⟨⟨due, few⟩, .inl ⟨search, above⟩⟩
    show execContactInputSample dt asserted s = _
    unfold execContactInputSample
    refine rowEffect_of ((onlyIf_of_true _ _ sampled).trans ?_)
    rw [show s.part.elapse dt = p from rfl]
    simp only [Motion.sample, search, if_true]
    rfl
  · have landed : p.motion.zState = .landed := landed
    have sampled : p.motion.sampleDue p.now = true := by
      simp only [Motion.sampleDue, Bool.and_eq_true, Bool.or_eq_true, decide_eq_true_eq, Bool.not_eq_true']
      exact ⟨⟨due, few⟩, .inr ⟨landed, unreported⟩⟩
    show execContactInputSample dt asserted s = _
    unfold execContactInputSample
    refine rowEffect_of ((onlyIf_of_true _ _ sampled).trans ?_)
    rw [show s.part.elapse dt = p from rfl]
    cases asserted <;> simp only [Motion.sample, landed, reduceCtorEq, if_false, Bool.not_true, Bool.not_false] <;> rfl

/-! ### Touchdown -/

@[simp] theorem Link.noteRefill_touch (l : Link) (k : FrameKind) : (l.noteRefill k).touch = l.touch := by
  unfold Link.noteRefill; split <;> rfl

/-- Settles O46. -/
theorem touchdownLandsTheProbe : Obligations.TouchdownLandsTheProbe := by
  refine ⟨fun s dt e active search counted => ?_, fun m owner l now => ?_⟩
  · intro p fill u
    have lands : ∀ t, (p.land e).afterTouchdown e = t → exec (.touchdown dt) s = .next { s with part := t } := by
      intro t h
      show execTouchdown dt s = _
      unfold execTouchdown
      refine rowEffect_of ?_
      rw [show s.part.elapse dt = p from rfl, show p.activeEntry = some e from active]
      exact (onlyIf_of_true _ _ (by simp only [Bool.and_eq_true, decide_eq_true_eq]; exact ⟨search, counted⟩)).trans h
    have landed : p.land e = u := rfl
    have rdv : u.pair.rdv = p.pair.rdv := rfl
    rw [landed] at lands
    have measures : u.canMeasure = true ↔ p.meas.state = .idle := by
      simp only [Fc4.canMeasure, Bool.and_eq_true, decide_eq_true_eq]
      exact ⟨And.right, And.intro rfl⟩
    refine ⟨by simp [u, Link.fillTouch, fill], fun solo idle => lands _ ?_, fun solo busy => lands _ ?_,
      fun r paired heading => lands _ ?_, fun r paired other => lands _ ?_⟩
    · rw [Fc4.afterTouchdown, rdv, solo]
      exact if_pos (measures.2 idle)
    · rw [Fc4.afterTouchdown, rdv, solo]
      exact if_neg (mt measures.1 busy)
    · rw [Fc4.afterTouchdown, rdv, paired]
      dsimp only
      rw [if_pos heading, Fc4.mapRdv_of_some (rdv.trans paired)]
      rfl
    · rw [Fc4.afterTouchdown, rdv, paired]
      exact if_neg other
  · intro fresh start
    have range : startRange l.kind l.hint = start := by
      simp only [start, startRange]; cases l.hint <;> rfl
    refine ⟨fun resistance => ?_, fun capr => ?_⟩
    · unfold Meas.begin
      rw [range]
      split
      · contradiction
      · rfl
    · unfold Meas.begin
      rw [range, capr]
      rfl

/-! ### Failed contact -/

theorem Meas.abort_idle {m : Meas} (now : Time) (idle : m.state = .idle) : m.abort now = { m with
    stimulus := none, forceSw := none, retSw := none, senseSw := none, localIn := false } := by
  simp only [Meas.abort, Meas.abortState, idle]; rfl

/-- An abort of a measurement under way begins its discharge. -/
theorem Meas.abort_active {m : Meas} (now : Time)
    (active : m.state ∈ [.zeroing, .settling, .ranging, .integrating, .timing]) : m.abort now = { m with
    state := .discharging, stimulus := none, discharge := some ⟨.abort, now + us 1000⟩, dischargeOn := true
    flags := ⟨false, false, false, false⟩, sum := 0, taken := 0, zero := none, sampleA := none, sampleB := none } := by
  have states : ∀ st ∈ [MeasState.zeroing, .settling, .ranging, .integrating, .timing], st ≠ .idle ∧ st ≠ .discharging := by
    decide
  obtain ⟨notIdle, notDischarging⟩ := states _ active
  unfold Meas.abort Meas.abortState
  split
  · contradiction
  · contradiction
  · rfl

theorem Meas.abort_between {m : Meas} (now : Time) {due : Time} (state : m.state = .discharging)
    (between : m.discharge = some ⟨.between, due⟩) : m.abort now = { m with
    stimulus := none, discharge := some ⟨.abort, now + us 1000⟩, flags := ⟨false, false, false, false⟩, sum := 0, taken := 0 } := by
  simp only [Meas.abort, Meas.abortState, state, between]; rfl

theorem Meas.abort_final {m : Meas} (now : Time) {due : Time} (state : m.state = .discharging)
    (final : m.discharge = some ⟨.final, due⟩) : m.abort now = { m with
    stimulus := none, computed := none, flags := ⟨false, false, false, false⟩ } := by
  simp only [Meas.abort, Meas.abortState, state, final]; rfl

theorem Motion.lift_low {m : Motion} (low : m.zState = .search ∨ m.zState = .landed) :
    m.lift = { m with zState := .lifting, descent := none, handed := none, liftWanted := false } := by
  rcases low with h | h <;> simp [Motion.lift, h]

/-- A touch with Z low goes to LIFT. -/
theorem Fc4.goLift_low {q : Fc4} {t : TouchRecord} (touch : q.work.touch = some t)
    (low : q.motion.zState = .search ∨ q.motion.zState = .landed) : q.goLift =
    { q with work := { q.work with touch := some { t with stage := .lift } }
             motion := { q.motion with zState := .lifting, descent := none, handed := none, liftWanted := false } } := by
  rw [Fc4.goLift, Fc4.mapTouch_of_some touch, Fc4.beginLift, Motion.lift_low (m := q.motion) low]

theorem Fc4.mapRdv_of_none {p : Fc4} (h : p.pair.rdv = none) (f : Rendezvous → Rendezvous) : p.mapRdv f = p := by
  have same : { p.pair with rdv := p.pair.rdv.map f } = p.pair := by rw [h, Option.map_none, ← h]
  rw [Fc4.mapRdv, same]

theorem Fc4.setOutcome_solo {q : Fc4} {t : TouchRecord} (touch : q.work.touch = some t) (solo : q.pair.rdv = none)
    (o : TouchOutcome) : q.setOutcome o = { q with work := { q.work with touch := some { t with outcome := some o } } } := by
  rw [Fc4.setOutcome, Fc4.mapTouch_of_some touch]
  exact Fc4.mapRdv_of_none (by exact solo) _

theorem Fc4.setOutcome_paired {q : Fc4} {t : TouchRecord} {r : Rendezvous} (touch : q.work.touch = some t)
    (paired : q.pair.rdv = some r) (o : TouchOutcome) : q.setOutcome o =
    { q with work := { q.work with touch := some { t with outcome := some o } }
             pair := { q.pair with rdv := some { r with outcome := some o } } } := by
  rw [Fc4.setOutcome, Fc4.mapTouch_of_some touch]
  exact Fc4.mapRdv_of_some (r := r) (by exact paired) _

theorem Fc4.toFinishing_solo {q : Fc4} (solo : q.pair.rdv = none) (o : TouchOutcome) : q.toFinishing o = q := by
  rw [Fc4.toFinishing, solo]

/-- The ABANDON of an early ending (R101). -/
theorem Fc4.toFinishing_loud {q : Fc4} {r : Rendezvous} (paired : q.pair.rdv = some r) (loud : r.quiet = false)
    (o : TouchOutcome) : q.toFinishing o =
    { q with link := q.link.fillPair ⟨.abandon, some o, r.tag, r.partner⟩
             pair := { q.pair with rdv := some { r with
               state := .finishing, timer := none, ending := some .abandon, endingDone := false } } } := by
  simp only [Fc4.toFinishing, paired, loud, Fc4.mapRdv, Option.map_some]; rfl

theorem Fc4.failLanded_paired {q : Fc4} (paired : q.pair.rdv.isSome = true) (o : TouchOutcome) :
    q.failLanded o = q.endRendezvous o false := by
  obtain ⟨r, rdv⟩ := Option.isSome_iff_exists.1 paired
  rw [Fc4.failLanded, rdv]

theorem Fc4.failLanded_solo {q : Fc4} {t : TouchRecord} (touch : q.work.touch = some t) (solo : q.pair.rdv = none)
    (o : TouchOutcome) (landed : t.stage = .measure) (unset : t.outcome = none) : q.failLanded o =
    if (q.meas.abort q.now).state = .idle then
      ({ q with work := { q.work with touch := some { t with outcome := some o } }, meas := q.meas.abort q.now } : Fc4).goLift
    else { q with work := { q.work with touch := some { t with outcome := some o } }, meas := q.meas.abort q.now } := by
  simp only [Fc4.failLanded, solo, touch, landed, unset, and_self, if_true, Fc4.setOutcome_solo touch solo]

/-- Settles O47. -/
theorem failedContactEndsTheTouch : Obligations.FailedContactEndsTheTouch := by
  refine ⟨fun s dt => ?_, fun q o t touch => ?_⟩
  · intro p
    refine ⟨fun d search descent few => ⟨fun bottom => ?_, fun current unlatched above => ?_⟩,
      fun landed => ⟨fun lost unreported => ?_, fun current unlatched above => ?_⟩⟩
    · have limit : p.motion.limit = d.limit := by rw [Motion.limit, show p.motion.descent = some d from descent]; rfl
      show execNoContact dt s = _
      unfold execNoContact
      refine rowEffect_of (onlyIf_of_true _ _ ?_)
      simp only [Bool.and_eq_true, decide_eq_true_eq]
      exact ⟨⟨search, bottom.trans limit.symm⟩, few⟩
    · intro q
      have limit : p.motion.limit = d.limit := by rw [Motion.limit, show p.motion.descent = some d from descent]; rfl
      have trips : (p.motion.armed && !p.motion.latch && decide (p.geo.overloadLevel < current)) = true := by
        simp only [Motion.armed, Bool.and_eq_true, Bool.or_eq_true, decide_eq_true_eq, Bool.not_eq_true']
        exact ⟨⟨.inl ⟨search, few⟩, unlatched⟩, above⟩
      have past : p.motion.searchOver = true ↔ s.part.motion.z = d.limit := by
        simp only [Motion.searchOver, decide_eq_true_eq, limit]; rfl
      have acts : ∀ u, (if p.motion.searchOver then q else q.failSearch .overload) = u →
          exec (.overloadLatch dt current) s = .next { s with part := u } := by
        intro u h
        show execOverloadLatch dt current s = _
        unfold execOverloadLatch
        refine rowEffect_of ((onlyIf_of_true _ _ trips).trans ?_)
        dsimp only
        rw [if_pos (show (s.part.elapse dt).motion.zState = .search from search)]
        exact h
      exact ⟨fun yet => acts _ (if_neg (mt past.1 yet)), fun bottom => acts _ (if_pos (past.2 bottom))⟩
    · show execContactLost dt s = _
      unfold execContactLost
      refine rowEffect_of (onlyIf_of_true _ _ ?_)
      simp only [Bool.and_eq_true, decide_eq_true_eq, Bool.not_eq_true']
      exact ⟨⟨landed, lost⟩, unreported⟩
    · have landed : p.motion.zState = .landed := landed
      have trips : (p.motion.armed && !p.motion.latch && decide (p.geo.overloadLevel < current)) = true := by
        simp only [Motion.armed, Bool.and_eq_true, Bool.or_eq_true, decide_eq_true_eq, Bool.not_eq_true']
        exact ⟨⟨.inr landed, unlatched⟩, above⟩
      show execOverloadLatch dt current s = _
      unfold execOverloadLatch
      refine rowEffect_of ((onlyIf_of_true _ _ trips).trans ?_)
      dsimp only
      rw [if_neg (show ¬ p.motion.zState = .search by simp [landed])]
  · intro low lifted ended
    refine ⟨fun down out => ?_, fun r down unset paired loud => ?_, fun paired => q.failLanded_paired paired o, fun solo => ?_⟩
    · rw [Fc4.failSearch, touch]
      cases was : t.outcome with
      | some o' =>
        simp only [Option.bind_some, was, Option.isSome_some, if_true]
        refine (Fc4.goLift_low touch down).trans ?_
        simp only [ended, was, Option.getD_some]; rfl
      | none =>
        have solo : q.pair.rdv = none := out.resolve_left (by simp [was])
        simp only [Option.bind_some, was, Option.isSome_none, Bool.false_eq_true, if_false, Fc4.setOutcome_solo touch solo]
        rw [Fc4.toFinishing_solo (by exact solo)]
        refine Eq.trans (Fc4.goLift_low (by rfl) (by exact down)) ?_
        simp only [ended, was, Option.getD_none]; rfl
    · rw [Fc4.failSearch, touch]
      simp only [Option.bind_some, unset, Option.isSome_none, Bool.false_eq_true, if_false, Fc4.setOutcome_paired touch paired]
      rw [Fc4.toFinishing_loud (r := { r with outcome := some o }) rfl loud]
      refine Eq.trans (Fc4.goLift_low (by rfl) (by exact down)) ?_
      simp only [ended, unset, Option.getD_none]; rfl
    · intro noFlags aborting set
      refine ⟨fun other => ?_, fun landed unset => ⟨fun down idle => ?_, fun active => ?_, fun due state between => ?_,
        fun due state final => ?_⟩⟩
      · rw [Fc4.failLanded, solo, touch]
        refine if_neg fun ⟨landed, unset⟩ => ?_
        rcases other with elsewhere | is
        · exact elsewhere landed
        · simp [unset] at is
      · rw [Fc4.failLanded_solo touch solo o landed unset, Meas.abort_idle q.now idle, if_pos (by exact idle)]
        refine Eq.trans (Fc4.goLift_low (by rfl) (by exact down)) ?_
        simp only [ended, unset, Option.getD_none]; rfl
      · rw [Fc4.failLanded_solo touch solo o landed unset, Meas.abort_active q.now active, if_neg (by simp)]
      · rw [Fc4.failLanded_solo touch solo o landed unset, Meas.abort_between q.now state between, if_neg (by simp [state])]
      · rw [Fc4.failLanded_solo touch solo o landed unset, Meas.abort_final q.now state final, if_neg (by simp [state])]

/-! ### The end of the lift -/

theorem Fc4.pauseCheck_eq (q : Fc4) : q.pauseCheck =
    if q.ctl.mode = .pausing ∧ q.work.touch = none then { q with ctl := { q.ctl with mode := .paused } } else q := by
  simp only [Fc4.pauseCheck, Option.isNone_iff_eq_none]

/-- What follows a touch's end (R82, R83, R188). -/
theorem Fc4.afterTouch_eq (q : Fc4) : q.afterTouch =
    if q.motion.latch = true ∧ q.geo.hold = true ∧ q.ctl.mode ∈ [.running, .pausing] then q.enterStopped .overload
    else if q.pauseCheck.yieldReady then q.pauseCheck.beginYield else q.pauseCheck.testStart := by
  simp only [Fc4.afterTouch, List.mem_cons, List.not_mem_nil, or_false]

/-- Settles O48. -/
theorem liftEndRaisesZ : Obligations.LiftEndRaisesZ := by
  refine ⟨fun s dt ⟨due, state, reset⟩ => ?_, fun q => ?_, fun s dt lifting noReset free => ?_⟩
  · have discharges : (s.part.elapse dt).lifting = false := by
      simp [Fc4.lifting, Meas.purposeIs, state, reset]
    show execLiftEnd dt s = _
    unfold execLiftEnd
    exact rowEffect_of (onlyIf_of_false _ _ discharges)
  · intro overloaded u waits
    have paused : q.pauseCheck = u := q.pauseCheck_eq
    have test : (q.motion.park = true ∧ q.motion.zState = .raised ∧ q.resv.claim.isNone = true ∧
        q.motion.permitted.isNone = true ∧ q.motion.axis = .standing) ↔ waits := by
      simp only [Option.isNone_iff_eq_none, waits]
    refine ⟨fun o => rfl, fun hot => ?_, fun fine ready => ?_, fun fine busy => ?_, fun no => ?_, fun go home => ?_,
      fun go away => ?_⟩
    · rw [Fc4.afterTouch_eq, if_pos hot]
    · rw [Fc4.afterTouch_eq, if_neg fine, paused, if_pos ready]
    · rw [Fc4.afterTouch_eq, if_neg fine, paused, if_neg (by simp [busy])]
    · exact if_neg (mt test.1 no)
    · exact (if_pos (test.2 go)).trans (if_pos home)
    · exact (if_pos (test.2 go)).trans (if_neg away)
  · intro p q row
    have lifts : p.lifting = true := by
      simp only [Fc4.lifting, Bool.and_eq_true, decide_eq_true_eq, Bool.not_eq_true', Option.isNone_iff_eq_none]
      exact ⟨⟨lifting, noReset⟩, free⟩
    have ends : ∀ t, p.liftEnded = t → row = .next { s with part := t } := by
      intro t h
      show execLiftEnd dt s = _
      unfold execLiftEnd
      exact rowEffect_of ((onlyIf_of_true _ _ lifts).trans h)
    refine ⟨fun touch => ends _ ?_, fun t o touch solo stage out => ends _ ?_, fun t touch paired stage => ends _ ?_,
      fun t touch stage => ends _ ?_⟩
    · simp only [Fc4.liftEnded, touch]; rfl
    · simp only [Fc4.liftEnded, touch, solo, stage, out]; rfl
    · obtain ⟨r, rdv⟩ := Option.isSome_iff_exists.1 paired
      simp only [Fc4.liftEnded, touch, rdv, stage, if_true]; rfl
    · cases rdv : p.pair.rdv with
      | none =>
        simp only [Fc4.liftEnded, touch, rdv]
        split
        · contradiction
        · rfl
      | some r => simp only [Fc4.liftEnded, touch, rdv, if_neg stage]; rfl

end Sys2Proof.Machine
end

section
/-! PROOF. The rendezvous (chapter 05): its early ending, the meeting of the partners, and its closing. O49 to O51. -/

namespace Sys2Proof.Machine

/-! ### Early endings -/

theorem Fc4.toFinishing_quiet {q : Fc4} {r : Rendezvous} (paired : q.pair.rdv = some r) (quiet : r.quiet = true)
    (o : TouchOutcome) : q.toFinishing o =
    { q with pair := { q.pair with rdv := some { r with state := .finishing, timer := none } } } := by
  simp only [Fc4.toFinishing, paired, quiet, if_true, Fc4.mapRdv, Option.map_some]

/-- The connections are broken at once while no measurement is in hand (R159). -/
theorem Fc4.breakLines_idle {u : Fc4} {r : Rendezvous} (paired : u.pair.rdv = some r) (idle : u.meas.state = .idle) :
    u.breakLines = { u with meas := { u.meas with forceSw := none, retSw := none, senseSw := none }
                            pair := { u.pair with rdv := some { r with connected := false } } } := by
  simp only [Fc4.breakLines, if_pos idle, Fc4.noteSwitches, Meas.openLines, Option.isNone_none, Bool.and_self, if_true,
    Fc4.mapRdv, paired, Option.map_some]

theorem Fc4.liftIfFree_lifts {u : Fc4} {r : Rendezvous} {t : TouchRecord} (paired : u.pair.rdv = some r)
    (touch : u.work.touch = some t) (finishing : r.state = .finishing) (broken : r.connected = false)
    (idle : u.meas.state = .idle) (landed : t.stage = .measure) : u.liftIfFree = u.goLift := by
  simp only [Fc4.liftIfFree, paired, touch, finishing, broken, idle, landed, and_self, if_true]

theorem Fc4.lineClaimPending_iff (u : Fc4) : u.lineClaimPending = true ↔ ∃ c, u.resv.claim = some c ∧ c.kind = .line := by
  unfold Fc4.lineClaimPending
  cases u.resv.claim <;> simp

theorem Fc4.withdrawClaim_claim (u : Fc4) : u.withdrawClaim.resv.claim = none := by
  unfold Fc4.withdrawClaim
  split
  · exact u.dropClaim.endAsk_claim
  · simpa using ‹¬ u.resv.claim.isSome = true›

@[simp] theorem Fc4.withdrawClaim_pairSlot (u : Fc4) : u.withdrawClaim.link.pair = u.link.pair := by
  unfold Fc4.withdrawClaim
  split
  · unfold Fc4.endAsk; split
    · split <;> simp [Fc4.dropClaim, Link.withdrawClaim, Link.withdrawAsk, Link.noteWithdrawal_eq]
    · simp [Fc4.dropClaim, Link.withdrawClaim, Link.noteWithdrawal_eq]
  · rfl

@[simp] theorem Link.noteRefill_pair (l : Link) (k : FrameKind) : (l.noteRefill k).pair = l.pair := by
  unfold Link.noteRefill; split <;> rfl

/-- A RELEASE that falls due is filled or waits; nothing else changes. -/
theorem Fc4.releaseDue_becomes (u : Fc4) (c : ReleaseCause) : ∃ (l : Link) (w : Option ReleaseCause),
    u.releaseDue c = { u with link := l, resv := { u.resv with waiting := w } } ∧ l.pair = u.link.pair := by
  unfold Fc4.releaseDue Fc4.fillReleaseFor
  split
  · exact ⟨u.link, some c, rfl, rfl⟩
  · split
    · exact ⟨u.link.fillRelease _, u.resv.waiting, rfl, by simp [Link.fillRelease]⟩
    · exact ⟨u.link, u.resv.waiting, rfl, rfl⟩

theorem Fc4.dropLinesIfDone_becomes (u : Fc4) : ∃ (l : Link) (w : Option ReleaseCause),
    u.dropLinesIfDone = { u with link := l, resv := { u.resv with waiting := w } } ∧ l.pair = u.link.pair := by
  unfold Fc4.dropLinesIfDone
  split
  · split
    · exact u.releaseDue_becomes _
    · exact ⟨u.link, u.resv.waiting, rfl, rfl⟩
  · exact ⟨u.link, u.resv.waiting, rfl, rfl⟩

/-- A LINE claim is withdrawn at an early ending (R101). -/
def Fc4.dropLineClaim (u : Fc4) : Fc4 := if u.lineClaimPending then u.withdrawClaim else u

theorem Fc4.finishLanded_eq (u : Fc4) (o : TouchOutcome) :
    u.finishLanded o = (u.toFinishing o).dropLineClaim.breakLines.liftIfFree.dropLinesIfDone := rfl

theorem Fc4.dropLineClaim_leaves (u : Fc4) : u.dropLineClaim.pair = u.pair ∧ u.dropLineClaim.work = u.work ∧
    u.dropLineClaim.meas = u.meas ∧ u.dropLineClaim.motion = u.motion ∧ u.dropLineClaim.view = u.view ∧
    u.dropLineClaim.link.pair = u.link.pair := by
  unfold Fc4.dropLineClaim
  split
  · simp only [Fc4.withdrawClaim_pair, Fc4.withdrawClaim_work, Fc4.withdrawClaim_meas, Fc4.withdrawClaim_motion,
      Fc4.withdrawClaim_view, Fc4.withdrawClaim_pairSlot, and_self]
  · simp only [and_self]

theorem Fc4.dropLineClaim_claim {u : Fc4} {c : Claim} (claim : u.resv.claim = some c) (line : c.kind = .line) :
    u.dropLineClaim.resv.claim = none := by
  rw [Fc4.dropLineClaim, if_pos (u.lineClaimPending_iff.2 ⟨c, claim, line⟩)]
  exact u.withdrawClaim_claim

/-- The record in FINISHING, with what it still owes its partner. -/
def endingRecord (r : Rendezvous) (o : TouchOutcome) (quiet : Bool) : Rendezvous :=
  if quiet then { r with outcome := some o, quiet, state := .finishing, timer := none }
  else { r with outcome := some o, quiet, state := .finishing, timer := none, ending := some .abandon, endingDone := false }

/-- The station after the outcome is set, and after the record has gone to FINISHING (R101). -/
def Fc4.outcomeSet (q : Fc4) (r : Rendezvous) (t : TouchRecord) (o : TouchOutcome) (quiet : Bool) : Fc4 :=
  { q with work := { q.work with touch := some { t with outcome := some o } }
           pair := { q.pair with rdv := some { r with outcome := some o, quiet } } }

def Fc4.endingBegun (q : Fc4) (r : Rendezvous) (t : TouchRecord) (o : TouchOutcome) (quiet : Bool) : Fc4 :=
  { q.outcomeSet r t o quiet with
      pair := { q.pair with rdv := some (endingRecord r o quiet) }
      link := if quiet then q.link else q.link.fillPair ⟨.abandon, some o, r.tag, r.partner⟩ }

theorem Fc4.toFinishing_outcomeSet (q : Fc4) (r : Rendezvous) (t : TouchRecord) (o : TouchOutcome) (quiet : Bool) :
    (q.outcomeSet r t o quiet).toFinishing o = q.endingBegun r t o quiet := by
  cases quiet with
  | true => exact Fc4.toFinishing_quiet (r := { r with outcome := some o, quiet := true }) rfl rfl o
  | false => exact Fc4.toFinishing_loud (r := { r with outcome := some o, quiet := false }) rfl rfl o

theorem Fc4.setOutcome_quiet {q : Fc4} {r : Rendezvous} {t : TouchRecord} (paired : q.pair.rdv = some r)
    (touch : q.work.touch = some t) (o : TouchOutcome) (quiet : Bool) :
    (q.setOutcome o).mapRdv (fun r => { r with quiet }) = q.outcomeSet r t o quiet := by
  rw [Fc4.setOutcome_paired touch paired]
  rfl

/-- A landed rendezvous ends early (R101). -/
theorem Fc4.endRendezvous_landed {q : Fc4} {r : Rendezvous} {t : TouchRecord} (paired : q.pair.rdv = some r)
    (touch : q.work.touch = some t) (unset : r.outcome = none) (o : TouchOutcome) (quiet : Bool)
    (state : r.state ∈ [.landedWait, .linking, .joinedWait, .holding]) :
    q.endRendezvous o quiet = (q.outcomeSet r t o quiet).finishLanded o := by
  simp only [Fc4.endRendezvous, paired, touch, unset, Fc4.setOutcome_quiet paired touch o quiet, Option.isSome_none,
    Bool.false_eq_true, if_false]
  simp only [List.mem_cons, List.not_mem_nil, or_false] at state
  rcases state with h | h | h | h <;> rw [h]

/-- The ending of a landed rendezvous with no measurement in hand (R101). -/
theorem Fc4.finishLanded_idle (q : Fc4) (r : Rendezvous) (t : TouchRecord) (o : TouchOutcome) (quiet : Bool)
    (landed : t.stage = .measure) (idle : q.meas.state = .idle) (down : q.motion.zState = .landed) :
    (q.outcomeSet r t o quiet).finishLanded o = ({ (q.endingBegun r t o quiet).dropLineClaim with
      meas := { q.meas with forceSw := none, retSw := none, senseSw := none }
      pair := { q.pair with rdv := some { endingRecord r o quiet with connected := false } }
      work := { q.work with touch := some { t with outcome := some o, stage := .lift } }
      motion := { q.motion with
        zState := .lifting, descent := none, handed := none, liftWanted := false } }).dropLinesIfDone := by
  obtain ⟨pair, work, meas, motion, -, -⟩ := (q.endingBegun r t o quiet).dropLineClaim_leaves
  have ending : (endingRecord r o quiet).state = .finishing := by cases quiet <;> rfl
  rw [Fc4.finishLanded_eq, q.toFinishing_outcomeSet, Fc4.breakLines_idle (r := endingRecord r o quiet) (by rw [pair]; rfl)
      (by rw [meas]; exact idle),
    Fc4.liftIfFree_lifts (r := { endingRecord r o quiet with connected := false }) (t := { t with outcome := some o })
      (by rfl) (by rw [work]; rfl) ending rfl (by simp only [meas]; exact idle) landed,
    Fc4.goLift_low (t := { t with outcome := some o }) (by rw [work]; rfl) (by simp only [motion]; exact .inr down)]
  simp only [pair, work, meas, motion]
  rfl

/-- Settles O49. -/
theorem rendezvousTimeoutAbandonsAndLifts : Obligations.RendezvousTimeoutAbandonsAndLifts := by
  refine ⟨fun s dt due r t paired touch timer expired => ?_, fun q o quiet r t paired touch => ?_⟩
  · have past : (s.part.elapse dt).timerOver = true := by
      simp only [Fc4.timerOver, show (s.part.elapse dt).pair.rdv = some r from paired, Option.bind_some, timer, decide_eq_true_eq]
      exact expired
    have ends : exec (.rendezvousTimeout dt) s = .next { s with part := (s.part.elapse dt).endRendezvous .partnerTimeout false } := by
      show execRendezvousTimeout dt s = _
      unfold execRendezvousTimeout
      exact rowEffect_of (onlyIf_of_true _ _ past)
    refine ⟨ends, fun state unset landed idle down => ?_⟩
    have becomes := (s.part.elapse dt).finishLanded_idle r t .partnerTimeout false landed idle down
    rw [← Fc4.endRendezvous_landed (q := s.part.elapse dt) paired touch unset .partnerTimeout false state] at becomes
    obtain ⟨-, -, -, -, viewKept, slotKept⟩ := ((s.part.elapse dt).endingBegun r t .partnerTimeout false).dropLineClaim_leaves
    obtain ⟨l, w, dropped, slot⟩ := Fc4.dropLinesIfDone_becomes _
    rw [becomes, dropped] at ends
    refine ⟨_, { endingRecord r .partnerTimeout false with connected := false }, ends, rfl, rfl, rfl, rfl, rfl, rfl, rfl, rfl, rfl,
      slot.trans ?_, rfl, rfl, rfl, rfl, rfl, ?_, ?_, fun c claim line => ?_⟩
    · exact slotKept.trans (by simp [Fc4.endingBegun, Link.fillPair])
    · exact rfl
    · exact viewKept
    · exact Fc4.dropLineClaim_claim (u := (s.part.elapse dt).endingBegun r t .partnerTimeout false) claim line
  · intro ended
    refine ⟨fun kept => ?_, fun unset => ?_⟩
    · rcases out : r.outcome with _ | o'
      · have finishing : r.state = .finishing := kept.resolve_left (by simp [out])
        simp only [ended, Fc4.endRendezvous, paired, touch, out, finishing, Option.isSome_none, Bool.false_eq_true, if_false]
      · simp only [ended, Fc4.endRendezvous, paired, touch, out, Option.isSome_some, if_true]
    · intro set ending finishing
      have begun : finishing = q.endingBegun r t o quiet := by
        cases quiet <;> rfl
      have base : (q.setOutcome o).mapRdv (fun r => { r with quiet }) = set := Fc4.setOutcome_quiet paired touch o quiet
      have toFinish : set.toFinishing o = finishing := begun ▸ q.toFinishing_outcomeSet r t o quiet
      refine ⟨fun heading => ⟨fun stage => ?_, fun stage handed => ?_, fun stage begins => ?_, fun stage => ?_⟩,
        fun measuring => ?_, fun landed stage idle down => ?_⟩
      · simp only [ended, Fc4.endRendezvous, paired, touch, unset, heading, stage, base, Option.isSome_none, Bool.false_eq_true,
          if_false, Fc4.endRaised, Fc4.withdrawClaim_motion]
        rfl
      · simp only [ended, Fc4.endRendezvous, paired, touch, unset, heading, stage, base, Option.isSome_none, Bool.false_eq_true,
          if_false, handed, if_true, Fc4.endRaised]
        rfl
      · simp only [ended, Fc4.endRendezvous, paired, touch, unset, heading, stage, base, Option.isSome_none, Bool.false_eq_true,
          if_false, begins, toFinish]
      · simp only [ended, Fc4.endRendezvous, paired, touch, unset, heading, stage, base, Option.isSome_none, Bool.false_eq_true,
          if_false]
      · simp only [ended, Fc4.endRendezvous, paired, touch, unset, measuring, base, Option.isSome_none, Bool.false_eq_true,
          if_false]
        rfl
      · intro freed
        have pending : finishing.lineClaimPending = true ↔ ∃ c, q.resv.claim = some c ∧ c.kind = .line := by
          rw [Fc4.lineClaimPending_iff]
          cases quiet <;> rfl
        have freedBy : freed = finishing.dropLineClaim := by simp only [freed, Fc4.dropLineClaim, pending]
        simp only [ended, freedBy, begun]
        exact (Fc4.endRendezvous_landed paired touch unset o quiet landed).trans
          (q.finishLanded_idle r t o quiet stage idle down)

/-! ### The partner's record -/

/-- A partner whose record is absent, SILENT, STOPPED or in CFG_FAULT is lost (R104). -/
theorem partnerGone_iff (x : Option PeerRecord) : partnerGone x = true ↔
    ∀ y, x = some y → y.presence = .silent ∨ y.mode = some .stopped ∨ y.mode = some .cfgFault := by
  cases x <;> simp [partnerGone, or_assoc]

theorem meets_iff (r : Rendezvous) (x : PeerRecord) :
    meets r x = true ↔ x.frontTag = r.tag ∧ x.landed = true ∧ x.presence ≠ .silent := by
  simp [meets, and_assoc]

/-- The partner is met by a note of our tag with our role, or goes to LINKING (R93). -/
theorem Fc4.meet_eq {p : Fc4} {r : Rendezvous} {x : PeerRecord} (paired : p.pair.rdv = some r)
    (record : p.record r.partner = some x) (waits : r.state = .landedWait) (met : meets r x = true) : p.meet =
    if (∃ n, p.note r.partner = some n ∧ n.tag = r.tag ∧ n.role = some r.role) then p.endRendezvous .mismatch false
    else p.toLinking r (decide (∃ n, p.note r.partner = some n ∧ n.tag = r.tag ∧ n.role.isSome = true)) := by
  simp only [Fc4.meet, paired, waits, record, met, if_true]
  cases note : p.note r.partner with
  | none => simp
  | some n => simp [Bool.decide_and]

theorem Fc4.toLinking_source (p : Fc4) {r : Rendezvous} (source : r.role = .source) (checked : Bool) :
    p.toLinking r checked = (p.mapRdv (fun r => { r with state := .linking, roleChecked := checked })).requestLines r.tag := by
  simp only [Fc4.toLinking, source]

theorem Fc4.toLinking_sense (p : Fc4) {r : Rendezvous} (sense : r.role = .sense) (checked : Bool) :
    p.toLinking r checked = (p.mapRdv (fun r => { r with state := .linking, roleChecked := checked })).senseLines := by
  simp only [Fc4.toLinking, sense]

theorem Fc4.meet_stays {p : Fc4} {r : Rendezvous} {x : PeerRecord} (paired : p.pair.rdv = some r)
    (record : p.record r.partner = some x) (h : r.state ≠ .landedWait ∨ ¬ meets r x = true) : p.meet = p := by
  simp only [Fc4.meet, paired, record]
  by_cases waits : r.state = .landedWait
  · simp only [waits, if_neg (h.resolve_left (not_not.2 waits))]
  · split <;> simp_all

theorem Fc4.senseLines_stays {p : Fc4} {r : Rendezvous} {x : PeerRecord} (paired : p.pair.rdv = some r)
    (record : p.record r.partner = some x)
    (h : r.state ≠ .linking ∨ r.role = .source ∨ x.lines.force = none ∨ x.lines.ret = none) : p.senseLines = p := by
  simp only [Fc4.senseLines, paired, record]
  split
  · split
    · simp_all
    · rfl
  · rfl

theorem Fc4.senseLines_links {p : Fc4} {r : Rendezvous} {x : PeerRecord} {a b : Line} (paired : p.pair.rdv = some r)
    (record : p.record r.partner = some x) (linking : r.state = .linking) (sense : r.role = .sense)
    (lines : x.lines = ⟨some a, some b⟩) : p.senseLines =
    if p.motion.zState = .landed then { p with
      meas := { p.meas with senseSw := some b }
      link := p.link.fillPair ⟨.joined, none, r.tag, r.partner⟩
      pair := { p.pair with rdv := some { r with retLine := some b, connected := true, state := .holding } } }
    else { p with pair := { p.pair with rdv := some { r with retLine := some b } } } := by
  simp only [Fc4.senseLines, paired, record, linking, sense, lines, Fc4.mapRdv, Option.map_some]

theorem Fc4.senseWatch_stays {p : Fc4} {r : Rendezvous} (paired : p.pair.rdv = some r)
    (h : r.role = .source ∨ r.connected = false) : p.senseWatch = p := by
  simp only [Fc4.senseWatch, paired]
  split
  · simp_all
  · rfl

/-- A connected SENSE watches its return line in its partner's record (R99). -/
theorem Fc4.senseWatch_watches {p : Fc4} {r : Rendezvous} {x : PeerRecord} {l : Line} (paired : p.pair.rdv = some r)
    (record : p.record r.partner = some x) (sense : r.role = .sense) (connected : r.connected = true)
    (ret : r.retLine = some l) : p.senseWatch =
    let cut : Fc4 := { p with
      meas := { p.meas with senseSw := none }, pair := { p.pair with rdv := some { r with connected := false } } }
    if x.lines.force = some l ∨ x.lines.ret = some l then p
    else if r.state = .holding then cut.endRendezvous .partnerLost false else cut := by
  simp only [Fc4.senseWatch, paired, record, sense, connected, ret, holdsLine, Bool.or_eq_true, decide_eq_true_eq, Fc4.mapRdv,
    Option.map_some]

theorem Fc4.checkLost_stays {p : Fc4} {r : Rendezvous} (paired : p.pair.rdv = some r)
    (h : ¬ partnerGone (p.record r.partner) = true ∨ r.state = .finishing ∨ r.outcome.isSome = true) : p.checkLost = p := by
  simp only [Fc4.checkLost, paired]
  refine if_neg fun ⟨gone, state, unset⟩ => ?_
  rcases h with here | finishing | out
  · exact here gone
  · exact state finishing
  · simp [unset] at out

/-- A lost partner ends the rendezvous, or its entry is deferred in stage CLAIM (R104). -/
theorem Fc4.checkLost_lost {p : Fc4} {r : Rendezvous} {t : TouchRecord} (paired : p.pair.rdv = some r)
    (gone : partnerGone (p.record r.partner) = true) (state : r.state ≠ .finishing) (unset : r.outcome = none)
    (touch : p.work.touch = some t) :
    (t.stage ≠ .claim ∨ p.activeEntry = none → p.checkLost = p.endRendezvous .partnerLost false) ∧
    (∀ e, t.stage = .claim → p.activeEntry = some e →
      p.checkLost = if p.deferAllowed e then p.deferClaiming e else p.endRendezvous .partnerLost false) := by
  refine ⟨fun h => ?_, fun e stage active => ?_⟩
  · simp only [Fc4.checkLost, paired, gone, state, unset, ne_eq, not_false_eq_true, and_self, if_true, touch, Option.map_some,
      Option.some.injEq]
    split
    · simp_all
    · rfl
  · simp only [Fc4.checkLost, paired, gone, state, unset, ne_eq, not_false_eq_true, and_self, if_true, touch, Option.map_some,
      stage, active, decide_true]

/-- Settles O50. -/
theorem partnersMeetOnTheirRecords : Obligations.PartnersMeetOnTheirRecords := by
  intro p r paired with' gone
  have lost : partnerGone (p.record r.partner) = true ↔ gone := partnerGone_iff _
  refine ⟨fun absent => ?_, fun x record => ?_, fun h => ?_, fun isGone state unset t touch => ?_, rfl, fun noClaim tag => ?_⟩
  · refine ⟨?_, ?_, ?_⟩
    · simp only [Fc4.meet, paired, absent]; cases r.state <;> rfl
    · simp only [Fc4.senseLines, paired, absent]; cases r.state <;> cases r.role <;> rfl
    · simp only [Fc4.senseWatch, paired, absent]; cases r.role <;> cases r.connected <;> cases r.retLine <;> rfl
  · intro met goOn
    have links : ∀ checked, p.mapRdv (fun r => { r with state := .linking, roleChecked := checked }) =
        with' { r with state := .linking, roleChecked := checked } := fun checked => Fc4.mapRdv_of_some paired _
    have linking : ∀ checked, p.meet = p.toLinking r checked → goOn checked := by
      intro checked h
      exact ⟨fun source => by rw [h, p.toLinking_source source, links], fun sense => by rw [h, p.toLinking_sense sense, links]⟩
    refine ⟨fun h => Fc4.meet_stays paired record (by rwa [meets_iff]), fun waits isMet => ?_,
      fun h => Fc4.senseLines_stays paired record h, fun state sense a b lines => ?_, fun h => Fc4.senseWatch_stays paired h,
      fun l sense connected ret => ?_⟩
    · have meeting := Fc4.meet_eq paired record waits ((meets_iff _ _).2 isMet)
      refine ⟨fun none => linking _ (meeting.trans (by simp [none])), fun n note => ⟨fun other => linking _ (meeting.trans ?_),
        fun tag role => meeting.trans (if_pos ⟨n, note, tag, role⟩), fun tag role differs => linking _ (meeting.trans ?_)⟩⟩
      · rcases other with tag | role
        · simp [note, tag]
        · simp [note, role]
      · simp [note, tag, role, differs]
    · have links := Fc4.senseLines_links paired record state sense lines
      exact ⟨fun down => links.trans (if_pos down), fun up => links.trans (if_neg up)⟩
    · have watches := Fc4.senseWatch_watches paired record sense connected ret
      intro cut
      exact ⟨fun listed => watches.trans (if_pos listed), fun force retLine =>
        ⟨fun holding => watches.trans ((if_neg (not_or.2 ⟨force, retLine⟩)).trans (if_pos holding)),
         fun other => watches.trans ((if_neg (not_or.2 ⟨force, retLine⟩)).trans (if_neg other))⟩⟩
  · exact Fc4.checkLost_stays paired (by rwa [lost])
  · obtain ⟨ends, claiming⟩ := Fc4.checkLost_lost paired (lost.2 isGone) state unset touch
    refine ⟨ends, fun e stage active => ⟨fun stuck => ?_, fun allowed => ?_⟩⟩
    · rw [claiming e stage active, stuck]; rfl
    · intro next carried
      have withdraws : (next.resv.claim.map Claim.who = some .touchList ∧ next.work.touch.map TouchRecord.stage ≠ some .claim) ↔
          ¬ carried := by
        simp only [carried, not_or, not_not, and_comm, ne_eq]
      have defers : p.checkLost = if next.resv.claim.map Claim.who = some .touchList ∧
          next.work.touch.map TouchRecord.stage ≠ some .claim then next.withdrawClaim else next := by
        rw [claiming e stage active, allowed]; rfl
      rw [defers]
      exact ⟨fun kept => if_neg fun h => withdraws.1 h kept, fun no => if_pos (withdraws.2 no)⟩
  · have alone : p.withdrawClaim = p := by simp [Fc4.withdrawClaim, noClaim]
    rw [Fc4.requestLines, Fc4.createClaim_eq, alone, noClaim]
    rfl

/-! ### Closing -/

/-- Everything that a finishing rendezvous waits for (R100). -/
theorem Fc4.closable_iff (p : Fc4) (r : Rendezvous) : p.closable r = true ↔
    r.state = .finishing ∧ (∃ t, p.work.touch = some t ∧ t.stage = .lift) ∧ p.motion.zState = .raised ∧
      r.connected = false ∧ (r.ending = none ∨ r.endingDone = true) ∧ p.link.pair = none ∧
      (∀ f, p.link.onLine = some f → f.content.kind ≠ .pair ∧ ∀ c, f.content = .claim c → c.tag = 0) ∧
      p.resv.heldLines = ⟨none, none⟩ ∧ (∀ c, p.resv.claim = some c → c.kind ≠ .line) := by
  have lift : p.work.touch.map TouchRecord.stage = some Stage.lift ↔ ∃ t, p.work.touch = some t ∧ t.stage = .lift := by simp
  have frame : (p.link.sending .pair = false ∧ p.link.sendingLineClaim = false) ↔
      ∀ f, p.link.onLine = some f → f.content.kind ≠ .pair ∧ ∀ c, f.content = .claim c → c.tag = 0 := by
    cases line : p.link.onLine with
    | none => simp [Link.sending, Link.sendingLineClaim, line]
    | some f =>
      have claims : p.link.sendingLineClaim = false ↔ ∀ c, f.content = .claim c → c.tag = 0 := by
        cases content : f.content <;> simp [Link.sendingLineClaim, line, content]
      simp [Link.sending, line, claims]
  have pending : p.lineClaimPending = false ↔ ∀ c, p.resv.claim = some c → c.kind ≠ .line := by
    rw [← Bool.not_eq_true, Fc4.lineClaimPending_iff]; simp
  simp only [Fc4.closable, Bool.and_eq_true, decide_eq_true_eq, Bool.not_eq_true', lift, Rendezvous.endingOver, Bool.or_eq_true,
    Option.isNone_iff_eq_none, noLines_iff, pending, ← frame]
  tauto

/-- Settles O51. -/
theorem rendezvousClosesWhenAllIsDone : Obligations.RendezvousClosesWhenAllIsDone := by
  intro p r o paired out done
  have closes : p.closeCheck = if p.closable r then p.endTouch o else p := by simp only [Fc4.closeCheck, paired, out]
  rw [closes]
  exact ⟨fun h => if_pos ((p.closable_iff r).2 h), fun h => if_neg (mt (p.closable_iff r).1 h)⟩

end Sys2Proof.Machine
end

section
/-! PROOF. Commands, HALT and CLEAR (chapter 10), and the start of a touch (chapter 04). O58. -/

namespace Sys2Proof.Machine

/-! ### The start test -/

theorem Fc4.deferAllowed_iff (p : Fc4) (e : Entry) : p.deferAllowed e = true ↔
    e.deferCount < 3 ∧ ∃ o ∈ p.work.list, o.id ≠ e.id ∧ o.st ≠ .finished := by
  simp only [Fc4.deferAllowed, isFinished, Bool.and_eq_true, decide_eq_true_eq, List.any_eq_true, Bool.not_eq_true',
    decide_eq_false_iff_not]
  rfl

/-- The partner's record shows another tag in front (R90). -/
def Fc4.partnerElsewhere (p : Fc4) (t : PairTerms) : Prop :=
  ∃ x, p.record t.partner = some x ∧ x.frontTag ≠ 0 ∧ x.frontTag ≠ t.tag

theorem Fc4.startDecision_go {p : Fc4} {e : Entry} (h : ∀ t, e.terms = some t →
    ¬ partnerGone (p.record t.partner) = true ∧ ¬ (p.partnerElsewhere t ∧ p.deferAllowed e = true)) :
    p.startDecision e = .go := by
  cases terms : e.terms with
  | none => simp only [Fc4.startDecision, terms]
  | some t =>
    obtain ⟨here, ready⟩ := h t terms
    simp only [Fc4.startDecision, terms, if_neg here]
    split
    · rename_i x record
      exact if_neg fun ⟨tag, other, allowed⟩ => ready ⟨⟨x, record, tag, other⟩, allowed⟩
    · rfl

theorem Fc4.startDecision_defers {p : Fc4} {e : Entry} {t : PairTerms} (terms : e.terms = some t)
    (h : partnerGone (p.record t.partner) = true ∨ p.partnerElsewhere t) (allowed : p.deferAllowed e = true) :
    p.startDecision e = .defer := by
  by_cases gone : partnerGone (p.record t.partner) = true
  · simp only [Fc4.startDecision, terms, if_pos gone, if_pos allowed]
  · obtain ⟨x, record, tag, other⟩ := h.resolve_left gone
    rw [record] at gone
    simp only [Fc4.startDecision, terms, record, if_neg gone]
    exact if_pos ⟨tag, other, allowed⟩

theorem Fc4.startDecision_lost {p : Fc4} {e : Entry} {t : PairTerms} (terms : e.terms = some t)
    (gone : partnerGone (p.record t.partner) = true) (stuck : ¬ p.deferAllowed e = true) : p.startDecision e = .lost := by
  simp only [Fc4.startDecision, terms, if_pos gone, if_neg stuck]

theorem Fc4.canStart_iff (p : Fc4) : p.canStart = true ↔ (p.ctl.mode = .running ∧ p.work.touch = none ∧
    p.front.isSome = true ∧ p.resv.yieldDue = false) ∧ p.results.queue.length < 64 := by
  simp only [Fc4.canStart, Fc4.queueRoom, Bool.and_eq_true, decide_eq_true_eq, Option.isNone_iff_eq_none,
    Bool.not_eq_true', show queueMax = 64 from rfl]
  tauto

theorem Fc4.refreshWaiting_iff (q : Fc4) : q.refreshWaiting.work.waiting = true ↔ q.ctl.mode = .running ∧
    q.work.touch = none ∧ q.front.isSome = true ∧ q.resv.yieldDue = false ∧ 64 ≤ q.results.queue.length := by
  show q.holdsForResults = true ↔ _
  simp only [Fc4.holdsForResults, Fc4.queueRoom, Bool.and_eq_true, decide_eq_true_eq, Option.isNone_iff_eq_none,
    Bool.not_eq_true', decide_eq_false_iff_not, not_lt, and_assoc]
  rfl

/-! ### Commands -/

theorem commandEffect_away {c : Command} {target : Station} {taken : Fc4 → Bool} {f : Fc4 → Fc4} {p : Fc4}
    (own : target ≠ p.own) (all : target ≠ 0) : commandEffect c target taken f p = p := if_neg (not_or.2 ⟨own, all⟩)

/-- A sequencer's command aimed here is taken, or answered with BUSY (R187). -/
theorem commandEffect_taken {c : Command} {target : Station} {taken : Fc4 → Bool} {f : Fc4 → Fc4} {p : Fc4}
    (aimed : target = p.own ∨ target = 0) (h : taken p = true) :
    commandEffect c target taken f p = (f p).reportCommand c .accepted := (if_pos aimed).trans (if_pos h)

theorem commandEffect_busy {c : Command} {target : Station} {taken : Fc4 → Bool} {f : Fc4 → Fc4} {p : Fc4}
    (aimed : target = p.own ∨ target = 0) (h : ¬ taken p = true) :
    commandEffect c target taken f p = p.reportCommand c .busy := (if_pos aimed).trans (if_neg h)

theorem Fc4.takesStart_iff (p : Fc4) :
    p.takesStart = true ↔ (p.ctl.mode = .idle ∧ p.motion.park = false) ∨ p.ctl.mode = .paused := by
  cases mode : p.ctl.mode <;> simp [Fc4.takesStart, resting, mode]

theorem takesPurge_iff (m : Mode) : takesPurge m = true ↔ m ∈ [.idle, .paused, .stopped] := by
  cases m <;> simp [takesPurge, resting]

theorem Fc4.pauseNow_eq (p : Fc4) : p.pauseNow = ({ p with ctl := { p.ctl with
    mode := if p.work.touch.isSome then .pausing else .paused } } : Fc4).refreshWaiting := by
  unfold Fc4.pauseNow
  rw [Fc4.pauseCheck_eq]
  cases touch : p.work.touch <;> simp [Fc4.setMode, touch]

/-- A RESET that is heard (R181, R186). -/
theorem exec_reset_heard {s : State} {dt : Time} {target : Station} (straps : Straps) (reading : CarriageReading)
    (heard : (s.part.elapse dt).hears (frameTime 1) = true) {t : Fc4}
    (h : (if target = (s.part.elapse dt).lineUsed.own ∨ target = 0 then
        if (s.part.elapse dt).lineUsed.ctl.mode = .starting then ((s.part.elapse dt).lineUsed.reportCommand .reset .busy).recheck
        else ((s.part.elapse dt).lineUsed.resetNow .commanded ⟨false, false, false⟩ reading).endReset straps
      else (s.part.elapse dt).lineUsed.recheck) = t) :
    exec (.reset dt target straps reading) s = .next { s with part := t } := by
  show execReset dt target straps reading s = _
  unfold execReset
  exact rowEffect_of ((onlyIf_of_true _ _ heard).trans h)

theorem Link.fillStatus_status (l : Link) : l.fillStatus.status = true := by
  simp [Link.fillStatus]

theorem Link.noteRefill_of_still {l : Link} {k : FrameKind} (still : l.sending k = false) : l.noteRefill k = l := by
  simp [Link.noteRefill, still]

/-- Settles O58. -/
theorem commandsAreTakenOrBusy : Obligations.CommandsAreTakenOrBusy := by
  refine ⟨fun s dt target code heard => ?_, fun p c o => ?_, fun p => ?_⟩
  · intro p mode running pausing emptied parked starts done
    have own : s.part.own = p.own := rfl
    have same : mode = p.ctl.mode := rfl
    clear_value mode
    subst same
    have does : ∀ (c : Command) (o : CommandOutcome) (taken : Fc4 → Bool) (f : Fc4 → Fc4) (u : Fc4),
        commandEffect c target taken f p = u.reportCommand c o →
        sequencerRow dt 1 (commandEffect c target taken f) s = .next { s with part := (u.reportCommand c o).recheck } :=
      fun c o taken f u h => by rw [sequencerRow_heard heard, ← h]
    rw [own]
    refine ⟨fun aimed => ⟨fun h => ?_, fun h => ?_, fun h => ?_, fun h => ?_, fun h => ?_, fun h => ?_, fun h => ?_, fun h => ?_,
      fun h => ?_, fun h => ⟨?_, fun straps reading => ?_⟩⟩, fun own' all row listed => ?_, fun own' all straps reading => ?_, ?_⟩
    · exact does .start .accepted _ _ _ (commandEffect_taken aimed (p.takesStart_iff.2 h))
    · exact does .start .busy _ _ _ (commandEffect_busy aimed (mt p.takesStart_iff.1 h))
    · exact does .pause .accepted _ _ _ ((commandEffect_taken aimed (decide_eq_true h)).trans (by rw [p.pauseNow_eq]))
    · exact does .pause .busy _ _ _ (commandEffect_busy aimed (mt of_decide_eq_true h))
    · exact does .purge .accepted _ _ _ (commandEffect_taken aimed ((takesPurge_iff _).2 h))
    · exact does .purge .busy _ _ _ (commandEffect_busy aimed (mt (takesPurge_iff _).1 h))
    · exact does .park .accepted _ _ _ (commandEffect_taken aimed (by simpa [Fc4.takesPark] using h))
    · exact does .park .busy _ _ _ (commandEffect_busy aimed (by simpa [Fc4.takesPark] using h))
    · exact does .query .accepted _ _ _ (commandEffect_taken aimed (by simpa using h))
    · exact does .query .busy _ _ _ (commandEffect_busy aimed (by simpa using h))
    · exact exec_reset_heard straps reading heard ((if_pos aimed).trans (if_pos h))
    · have away : ∀ (c : Command) (taken : Fc4 → Bool) (f : Fc4 → Fc4),
          sequencerRow dt 1 (commandEffect c target taken f) s = .next { s with part := p.recheck } :=
        fun c taken f => by rw [sequencerRow_heard heard, commandEffect_away own' all]
      simp only [List.mem_cons, List.not_mem_nil, or_false] at listed
      rcases listed with rfl | rfl | rfl | rfl | rfl | rfl
      · exact away _ _ _
      · exact away _ _ _
      · exact away _ _ _
      · exact away _ _ _
      · exact away _ _ _
      · exact (sequencerRow_heard heard _).trans (by rw [if_neg (not_or.2 ⟨own', all⟩)])
    · exact exec_reset_heard straps reading heard (if_neg (not_or.2 ⟨own', all⟩))
    · exact sequencerRow_heard heard id
  · intro u
    refine ⟨Link.fillStatus_status _, fun still => ?_, rfl⟩
    exact Link.noteRefill_of_still (l := { p.link with status := true }) still
  · intro idle starts
    refine ⟨p.canStart_iff.symm, fun q => q.refreshWaiting_iff, fun q => rfl, fun no => ?_, fun e front => ?_⟩
    · exact p.testStart_turn.1 (by simpa using mt p.canStart_iff.1 no)
    · intro gone elsewhere deferrable deferred active begun lost
      have isGone : ∀ t : PairTerms, partnerGone (p.record t.partner) = true ↔ gone t.partner := fun t => partnerGone_iff _
      have isDeferrable : p.deferAllowed e = true ↔ deferrable := p.deferAllowed_iff e
      have turns : p.ListOk → p.Turnable := fun ⟨_, ids, _, counts⟩ => ⟨ids, counts⟩
      refine ⟨fun h ready => ?_, fun h ok t terms => ⟨fun off can => ?_, fun off cannot => ?_⟩⟩
      · have go : p.startDecision e = .go := Fc4.startDecision_go fun t terms => by
          rw [isGone, isDeferrable]; exact ready t terms
        exact (p.testStart_turn.2 e (p.canStart_iff.2 h) front).1 go
      · exact ((p.testStart_turn.2 e (p.canStart_iff.2 h) front).2 (turns ok)).1
          (Fc4.startDecision_defers terms (by rw [isGone]; exact off) (isDeferrable.2 can))
      · exact ((p.testStart_turn.2 e (p.canStart_iff.2 h) front).2 (turns ok)).2
          (Fc4.startDecision_lost terms ((isGone t).2 off) (mt isDeferrable.1 cannot))

end Sys2Proof.Machine
end

section
/-! PROOF. HALT and CLEAR (chapter 10), and what an entry to STOPPED does to each block. O59, O60. -/

namespace Sys2Proof.Machine

/-! ### What each block does -/

/-- The content of the frame on the line, which no withdrawal changes. -/
def Link.lineContent (l : Link) : Option OnAir := l.onLine.map OwnFrame.content

theorem Link.sending_of_content {l m : Link} (h : l.lineContent = m.lineContent) (k : FrameKind) : l.sending k = m.sending k := by
  have byContent : ∀ n : Link, n.sending k = (n.lineContent.map (fun c => decide (c.kind = k))).getD false := by
    intro n; simp only [Link.sending, Link.lineContent]; cases n.onLine <;> rfl
  rw [byContent, byContent, h]

theorem Link.noteWithdrawal_line (l : Link) (k : FrameKind) : ∃ line, l.noteWithdrawal k = { l with onLine := line } ∧
    line.map OwnFrame.content = l.lineContent := by
  refine ⟨_, l.noteWithdrawal_eq k, ?_⟩
  cases line : l.onLine with
  | none => simp [Link.lineContent, line]
  | some f => simp only [Link.lineContent, line, Option.map_some, Option.some.injEq]; split <;> rfl

/-- An ask stands whose frame has not completed. -/
def Resv.unsentAsk (r : Resv) : Bool := r.ask.any (fun a => a.sent.isNone)

theorem Fc4.endAsk_line (p : Fc4) : ∃ line, p.endAsk = { p with
      resv := { p.resv with ask := none }
      link := { p.link with ask := if p.resv.unsentAsk then none else p.link.ask, onLine := line } } ∧
    line.map OwnFrame.content = p.link.lineContent := by
  cases ask : p.resv.ask with
  | none =>
    refine ⟨p.link.onLine, ?_, rfl⟩
    have kept : { p.resv with ask := none } = p.resv := by rw [← ask]
    rw [Fc4.endAsk_of_none ask, kept]
    simp [Resv.unsentAsk, ask]
  | some a =>
    cases sent : a.sent with
    | none =>
      obtain ⟨line, becomes, same⟩ := ({ p.link with ask := none } : Link).noteWithdrawal_line .ask
      refine ⟨line, ?_, same⟩
      rw [Fc4.endAsk_unsent ask sent, Link.withdrawAsk, becomes]
      simp [Resv.unsentAsk, ask, sent]
    | some t =>
      refine ⟨p.link.onLine, ?_, rfl⟩
      rw [Fc4.endAsk_sent ask (by simp [sent])]
      simp [Resv.unsentAsk, ask, sent]

/-- What is left of the reservations (R63). -/
def Resv.stopped (r : Resv) : Resv :=
  { r with claim := none, blockedSince := if r.claim.isSome then none else r.blockedSince
           recheckDue := if r.claim.isSome then none else r.recheckDue
           ask := none, asks := [], yieldDue := false, yieldAtClose := false }

theorem Fc4.stopReservation_eq (p : Fc4) : ∃ line, p.stopReservation = { p with
      resv := p.resv.stopped
      link := { p.link with claim := if p.resv.claim.isSome then none else p.link.claim
                            ask := if p.resv.unsentAsk then none else p.link.ask, onLine := line } } ∧
    line.map OwnFrame.content = p.link.lineContent := by
  cases claim : p.resv.claim with
  | none =>
    obtain ⟨line, becomes, same⟩ := p.endAsk_line
    have kept : p.withdrawClaim = p := by simp [Fc4.withdrawClaim, claim]
    refine ⟨line, ?_, same⟩
    rw [Fc4.stopReservation, kept, becomes]
    simp [Resv.stopped, claim]
  | some c =>
    obtain ⟨line, becomes, same⟩ := ({ p.link with claim := none } : Link).noteWithdrawal_line .claim
    obtain ⟨line', becomes', same'⟩ := p.dropClaim.endAsk_line
    have dropped : p.withdrawClaim = p.dropClaim.endAsk := by simp [Fc4.withdrawClaim, claim]
    have once : p.dropClaim.endAsk.endAsk = p.dropClaim.endAsk := Fc4.endAsk_of_none (by simp)
    have link : p.dropClaim.link = { p.link with claim := none, onLine := line } := becomes
    refine ⟨line', ?_, same'.trans (by rw [link]; exact same)⟩
    rw [Fc4.stopReservation, dropped, once, becomes']
    simp only [link, Resv.stopped, claim, Option.isSome_some, if_true]
    rfl

/-- What is left of the rendezvous (R107). -/
theorem Fc4.stopPair_eq (p : Fc4) : ∃ line, p.stopPair = { p with
      pair := { p.pair with rdv := none }
      link := { p.link with pair := if p.pair.rdv.isSome then none else p.link.pair, onLine := line }
      meas := if p.pair.rdv.isSome then { p.meas with senseSw := none } else p.meas } ∧
    line.map OwnFrame.content = p.link.lineContent := by
  cases rdv : p.pair.rdv with
  | none =>
    refine ⟨p.link.onLine, ?_, rfl⟩
    have kept : { p.pair with rdv := none } = p.pair := by rw [← rdv]
    rw [kept]
    simp [Fc4.stopPair, rdv]
  | some r =>
    obtain ⟨line, becomes, same⟩ := ({ p.link with pair := none } : Link).noteWithdrawal_line .pair
    refine ⟨line, ?_, same⟩
    simp only [Fc4.stopPair, rdv, Link.withdrawPair, becomes]
    rfl

/-- The list of a stop: the ACTIVE entry of a touch in progress is QUEUED again (R86). -/
def Work.stopped (w : Work) : Work :=
  { w with touch := none, waiting := false
           list := if w.touch.isSome then w.list.map (fun e => if e.st = .active then { e with st := .queued } else e)
                   else w.list }

theorem Fc4.requeueTouch_unpaired {u : Fc4} (unpaired : u.pair.rdv = none) :
    u.requeueTouch = { u with work := { u.work.stopped with waiting := u.work.waiting } } := by
  cases touch : u.work.touch with
  | none =>
    have kept : { u.work.stopped with waiting := u.work.waiting } = u.work := by
      simp only [Work.stopped, touch, Option.isSome_none, Bool.false_eq_true, if_false]
      rw [← touch]
    rw [Fc4.requeueTouch_of_none touch, kept]
  | some t =>
    have kept : { u.pair with rdv := none } = u.pair := by rw [← unpaired]
    rw [Fc4.requeueTouch_of_touch (by simp [touch]), kept]
    simp only [Work.stopped, touch, Option.isSome_some, if_true]

/-- The measurement record at a stop, before its abort: a SENSE's switch is open (R160). -/
def Fc4.stopMeas (p : Fc4) : Meas := if p.pair.rdv.isSome then { p.meas with senseSw := none } else p.meas

/-- What the blocks of a stop leave (R191). -/
theorem Fc4.stopBlocks_eq (p : Fc4) (r : StopReason) : ∃ line, p.stopBlocks r = { p with
      ctl := { p.ctl with mode := .stopped, reason := r, axisFaulted := decide (r = .axisFault) }
      resv := p.resv.stopped
      pair := { p.pair with rdv := none }
      work := p.work.stopped
      link := { p.link with claim := if p.resv.claim.isSome then none else p.link.claim
                            ask := if p.resv.unsentAsk then none else p.link.ask
                            pair := if p.pair.rdv.isSome then none else p.link.pair, onLine := line }
      meas := p.stopMeas.abort p.now
      motion := p.motion.stopAxes.stopZ (decide ((p.stopMeas.abort p.now).state = .idle)) } ∧
    line.map OwnFrame.content = p.link.lineContent := by
  obtain ⟨line, reserved, same⟩ := ({ p with ctl := { p.ctl with
    mode := .stopped, reason := r, axisFaulted := decide (r = .axisFault) } } : Fc4).stopReservation_eq
  obtain ⟨line', paired, same'⟩ := Fc4.stopPair_eq { p with
    ctl := { p.ctl with mode := .stopped, reason := r, axisFaulted := decide (r = .axisFault) }
    resv := p.resv.stopped
    link := { p.link with claim := if p.resv.claim.isSome then none else p.link.claim
                          ask := if p.resv.unsentAsk then none else p.link.ask, onLine := line } }
  refine ⟨line', ?_, same'.trans same⟩
  unfold Fc4.stopBlocks
  dsimp only
  rw [reserved, paired, Fc4.requeueTouch_unpaired (by rfl)]
  rfl

/-! ### XY, Z and the measurement -/

theorem Motion.stopAxes_moving {m : Motion} (moving : m.axis = .moving) : m.stopAxes = { m with
    permitted := none, park := false, axis := .stopping, outX := .stop, outY := .stop, stopFrom := some ⟨m.ax.pos, m.ay.pos⟩ } :=
  if_pos moving

theorem Motion.stopAxes_still {m : Motion} (still : m.axis ≠ .moving) :
    m.stopAxes = { m with permitted := none, park := false } := if_neg still

/-- Z at a stop changes neither the axes nor what a stop of theirs has cleared. -/
theorem Motion.stopZ_axes (m : Motion) (idle : Bool) : (m.stopZ idle).axis = m.axis ∧ (m.stopZ idle).outX = m.outX ∧
    (m.stopZ idle).outY = m.outY ∧ (m.stopZ idle).stopFrom = m.stopFrom ∧ (m.stopZ idle).permitted = m.permitted ∧
    (m.stopZ idle).park = m.park ∧ (m.stopZ idle).ax = m.ax ∧ (m.stopZ idle).ay = m.ay ∧ (m.stopZ idle).handed = none := by
  unfold Motion.stopZ
  split
  · exact ⟨rfl, rfl, rfl, rfl, rfl, rfl, rfl, rfl, rfl⟩
  · exact ⟨rfl, rfl, rfl, rfl, rfl, rfl, rfl, rfl, rfl⟩
  · split <;> exact ⟨rfl, rfl, rfl, rfl, rfl, rfl, rfl, rfl, rfl⟩
  · exact ⟨rfl, rfl, rfl, rfl, rfl, rfl, rfl, rfl, rfl⟩

theorem Motion.stopZ_descending {m : Motion} (down : m.zState = .fastDescent ∨ m.zState = .search) (idle : Bool) :
    (m.stopZ idle).zState = .lifting ∧ (m.stopZ idle).descent = none := by
  rcases down with h | h <;> simp [Motion.stopZ, h, Motion.lift]

theorem Motion.stopZ_landed {m : Motion} (landed : m.zState = .landed) :
    (m.stopZ true).zState = .lifting ∧ (m.stopZ false).zState = .landed ∧ (m.stopZ false).liftWanted = true := by
  simp [Motion.stopZ, landed, Motion.lift]

theorem Motion.stopAxes_z (m : Motion) : m.stopAxes.zState = m.zState ∧ m.stopAxes.permitted = none ∧
    m.stopAxes.park = false ∧ m.stopAxes.ax = m.ax ∧ m.stopAxes.ay = m.ay := by
  by_cases moving : m.axis = .moving
  · simp [Motion.stopAxes_moving moving]
  · simp [Motion.stopAxes_still moving]

theorem Meas.abort_reset {m : Meas} (now : Time) {due : Time} (state : m.state = .discharging)
    (reset : m.discharge = some ⟨.reset, due⟩) : m.abort now = { m with
    stimulus := none, forceSw := none, retSw := none, senseSw := none, localIn := false } := by
  simp only [Meas.abort, Meas.abortState, state, reset]; rfl

theorem Meas.abort_abort {m : Meas} (now : Time) {due : Time} (state : m.state = .discharging)
    (abort : m.discharge = some ⟨.abort, due⟩) : m.abort now = { m with stimulus := none } := by
  simp only [Meas.abort, Meas.abortState, state, abort]

/-! ### The stop's RELEASE -/

theorem Link.fillRelease_line (l : Link) (f : ReleaseFill) :
    ∃ line, l.fillRelease f = { l with release := some f, onLine := line } := by
  unfold Link.fillRelease Link.noteRefill
  split
  · exact ⟨_, rfl⟩
  · exact ⟨_, rfl⟩

/-- The RELEASE that falls due where the carriage stands at a stop (R63). -/
theorem Fc4.releaseDue_stands (b : Fc4) : ∃ line,
    (b.link.sending .claim = true → b.releaseDue .carriageStands = { b with resv := { b.resv with waiting := some .carriageStands } }) ∧
    (b.link.sending .claim = false → b.releaseDue .carriageStands =
      { b with link := { b.link with release := (b.releaseContents .carriageStands).or b.link.release, onLine := line } }) := by
  cases contents : b.releaseContents .carriageStands with
  | none =>
    refine ⟨b.link.onLine, fun waits => if_pos waits, fun free => ?_⟩
    rw [Fc4.releaseDue, if_neg (by simp [free]), Fc4.fillReleaseFor, contents]
    rfl
  | some f =>
    obtain ⟨line, filled⟩ := b.link.fillRelease_line f
    refine ⟨line, fun waits => if_pos waits, fun free => ?_⟩
    rw [Fc4.releaseDue, if_neg (by simp [free]), Fc4.fillReleaseFor_of contents, filled]
    rfl

/-- What that RELEASE states, where it is filled: the box held at an axis fault, and else the standing box. -/
def Fc4.stopRelease (p : Fc4) (r : StopReason) : Option ReleaseFill :=
  if r = .axisFault then
    if p.resv.heldLines = ⟨none, none⟩ then none else some ⟨p.heldOrStanding, ⟨none, none⟩, 0, decide (p.here = p.geo.haven)⟩
  else if p.resv.heldBox = some p.standing ∧ p.resv.heldLines = ⟨none, none⟩ then none
  else some ⟨p.standing, ⟨none, none⟩, 0, decide (p.here = p.geo.haven)⟩

/-- Position, box and lines are what a stop's RELEASE is made of. -/
theorem Fc4.releaseContents_stop {b p : Fc4} {r : StopReason} (faulted : b.ctl.axisFaulted = decide (r = .axisFault))
    (geo : b.geo = p.geo) (here : b.here = p.here) (box : b.resv.heldBox = p.resv.heldBox)
    (lines : b.resv.heldLines = p.resv.heldLines) (standing : b.motion.axis = .standing) :
    b.releaseContents .carriageStands = p.stopRelease r := by
  have flag : b.atHavenFlag = decide (p.here = p.geo.haven) := by
    rw [Bool.eq_iff_iff, Fc4.atHavenFlag_iff, here, geo]; simp [standing]
  have still : b.standing = p.standing := by rw [Fc4.standing, Fc4.standing, geo, here]
  have held : b.heldOrStanding = p.heldOrStanding := by rw [Fc4.heldOrStanding, Fc4.heldOrStanding, box, still]
  simp only [Fc4.releaseContents, Fc4.stopRelease, faulted, decide_eq_true_eq, noLines_iff, flag, still, held, box, lines]
  rfl

/-- What an entry to STOPPED leaves (R191), with the RELEASE slot, what waits for it and the frame on the line. -/
def Fc4.stopped (p : Fc4) (r : StopReason) (release : Option ReleaseFill) (waiting : Option ReleaseCause)
    (line : Option OwnFrame) : Fc4 :=
  { p with
      ctl := { p.ctl with mode := .stopped, reason := r, axisFaulted := decide (r = .axisFault) }
      resv := { p.resv.stopped with waiting }
      pair := { p.pair with rdv := none }
      work := p.work.stopped
      link := { p.link with release, claim := if p.resv.claim.isSome then none else p.link.claim
                            ask := if p.resv.unsentAsk then none else p.link.ask
                            pair := if p.pair.rdv.isSome then none else p.link.pair, onLine := line }
      meas := p.stopMeas.abort p.now
      motion := p.motion.stopAxes.stopZ (decide ((p.stopMeas.abort p.now).state = .idle)) }

theorem Fc4.enterStopped_eq (p : Fc4) (r : StopReason) : ∃ release waiting line,
    p.enterStopped r = p.stopped r release waiting line ∧
    (p.motion.axis ≠ .standing → release = p.link.release ∧ waiting = p.resv.waiting) ∧
    (p.motion.axis = .standing →
      (p.link.sending .claim = true → waiting = some .carriageStands ∧ release = p.link.release) ∧
      (p.link.sending .claim = false → waiting = p.resv.waiting ∧ release = (p.stopRelease r).or p.link.release)) := by
  obtain ⟨line, blocks, same⟩ := p.stopBlocks_eq r
  have sending : (p.stopBlocks r).link.sending .claim = p.link.sending .claim :=
    Link.sending_of_content (by rw [blocks]; exact same) _
  obtain ⟨axis, -, -, -, -, -, ax, ay, -⟩ := p.motion.stopAxes.stopZ_axes (decide ((p.stopMeas.abort p.now).state = .idle))
  obtain ⟨-, -, -, x, y⟩ := p.motion.stopAxes_z
  have axisThere : (p.stopBlocks r).motion.axis = p.motion.stopAxes.axis := by rw [blocks]; exact axis
  by_cases standing : p.motion.axis = .standing
  · have still : (p.stopBlocks r).motion.axis = .standing := by
      rw [axisThere, Motion.stopAxes_still (by simp [standing])]; exact standing
    have entered : p.enterStopped r = (p.stopBlocks r).releaseDue .carriageStands :=
      if_neg (by simp [Fc4.moveInProgress, still])
    have contents : (p.stopBlocks r).releaseContents .carriageStands = p.stopRelease r := by
      refine Fc4.releaseContents_stop ?_ ?_ ?_ ?_ ?_ still
      · rw [blocks]
      · rw [blocks]; rfl
      · rw [blocks]; simp only [Fc4.here, ax, ay, x, y]
      · rw [blocks]; rfl
      · rw [blocks]; rfl
    obtain ⟨line', waits, free⟩ := (p.stopBlocks r).releaseDue_stands
    rw [sending, contents, ← entered] at free
    rw [sending, ← entered] at waits
    cases claim : p.link.sending .claim with
    | true =>
      refine ⟨p.link.release, some .carriageStands, line, ?_, fun h => absurd standing h,
        fun _ => ⟨fun _ => ⟨rfl, rfl⟩, nofun⟩⟩
      rw [waits claim, blocks]
      rfl
    | false =>
      refine ⟨(p.stopRelease r).or p.link.release, p.resv.waiting, line', ?_, fun h => absurd standing h,
        fun _ => ⟨nofun, fun _ => ⟨rfl, rfl⟩⟩⟩
      rw [free claim, blocks]
      rfl
  · have moves : p.enterStopped r = p.stopBlocks r := by
      refine if_pos ?_
      have : p.motion.stopAxes.axis ≠ .standing := by
        by_cases moving : p.motion.axis = .moving
        · simp [Motion.stopAxes_moving moving]
        · rw [Motion.stopAxes_still moving]; exact standing
      simpa [Fc4.moveInProgress, axisThere] using this
    refine ⟨p.link.release, p.resv.waiting, line, ?_, fun _ => ⟨rfl, rfl⟩, fun h => absurd h standing⟩
    rw [moves, blocks]
    rfl

theorem working_iff (m : Mode) : working m = true ↔ m ∈ [.idle, .running, .pausing, .paused] := by
  cases m <;> simp [working]

/-- A HALT stops a working station (R190); a stopped one has no claim to examine. -/
theorem Fc4.halt_heard (s : State) (dt : Time) (target : Station) (heard : (s.part.elapse dt).hears (frameTime 0) = true) :
    let p := (s.part.elapse dt).lineUsed
    (s.part.ctl.mode ∈ [.idle, .running, .pausing, .paused] →
      exec (.halt dt target) s = .next { s with part := (p.enterStopped .halt).recheck } ∧
      (p.enterStopped .halt).recheck = p.enterStopped .halt) ∧
    (s.part.ctl.mode ∈ [.starting, .cfgFault, .stopped] → exec (.halt dt target) s = .next { s with part := p.recheck }) := by
  intro p
  have halts : ∀ u, (if working p.ctl.mode then p.enterStopped .halt else p) = u →
      exec (.halt dt target) s = .next { s with part := u.recheck } := by
    intro u h
    rw [← h]
    exact sequencerRow_heard heard (fun p => if working p.ctl.mode then p.enterStopped .halt else p)
  have mode : s.part.ctl.mode = p.ctl.mode := rfl
  rw [mode]
  refine ⟨fun works => ⟨halts _ (if_pos ((working_iff _).2 works)), ?_⟩, fun idle => halts _ (if_neg ?_)⟩
  · obtain ⟨release, waiting, line, entered, -⟩ := p.enterStopped_eq .halt
    have noClaim : (p.enterStopped .halt).resv.claim = none := by rw [entered]; rfl
    simp [Fc4.recheck, noClaim]
  · rw [working_iff]
    intro works
    generalize p.ctl.mode = m at idle works
    cases m <;> simp at idle works

/-- Settles O59. -/
theorem haltStopsEveryBlock : Obligations.HaltStopsEveryBlock := by
  refine ⟨Fc4.halt_heard, fun p r => ?_⟩
  obtain ⟨release, waiting, line, entered, moved, stood⟩ := p.enterStopped_eq r
  obtain ⟨axis, outX, outY, stopFrom, permitted, park, -, -, handed⟩ :=
    p.motion.stopAxes.stopZ_axes (decide ((p.stopMeas.abort p.now).state = .idle))
  obtain ⟨z, permittedOff, parkOff, -, -⟩ := p.motion.stopAxes_z
  intro u
  rw [show u = p.stopped r release waiting line from entered]
  refine ⟨rfl, rfl, rfl, fun claimed => if_pos claimed, rfl, rfl, rfl, rfl, rfl, rfl, rfl, rfl, rfl, rfl, fun moving => ?_,
    fun still => ?_, permitted.trans permittedOff, park.trans parkOff, handed, fun down => ?_, fun landed => ?_,
    ?_, rfl, rfl, rfl, fun claimed => if_pos claimed, fun paired => if_pos paired, fun a ask unsent => ?_, rfl, rfl, rfl, rfl,
    moved, fun standing => ?_, ?_⟩
  · have stop := Motion.stopAxes_moving moving
    exact ⟨axis.trans (by rw [stop]), outX.trans (by rw [stop]), outY.trans (by rw [stop]), stopFrom.trans (by rw [stop]; rfl)⟩
  · have stop := Motion.stopAxes_still still
    exact ⟨axis.trans (by rw [stop]), outX.trans (by rw [stop]), outY.trans (by rw [stop])⟩
  · exact Motion.stopZ_descending (by rwa [z]) _
  · obtain ⟨lifts, stays, wanted⟩ := Motion.stopZ_landed (m := p.motion.stopAxes) (z.trans landed)
    by_cases idle : (p.stopMeas.abort p.now).state = .idle
    · exact .inl ⟨idle, by simpa only [Fc4.stopped, idle, decide_true] using lifts⟩
    · exact .inr ⟨idle, by simpa only [Fc4.stopped, idle, decide_false] using stays,
        by simpa only [Fc4.stopped, idle, decide_false] using wanted⟩
  · exact (Meas.abort_off _ _).1
  · exact if_pos (by simp [Resv.unsentAsk, ask, unsent])
  · intro box holds
    obtain ⟨waits, free⟩ := stood standing
    refine ⟨waits, fun quiet => ?_⟩
    obtain ⟨still, filled⟩ := free quiet
    refine ⟨still, fun held => filled.trans ?_, fun differs => filled.trans ?_⟩
    · have nothing : p.stopRelease r = none := by
        unfold Fc4.stopRelease
        by_cases fault : r = .axisFault
        · simp only [holds, if_pos fault] at held; rw [if_pos fault, if_pos held]
        · simp only [holds, if_neg fault] at held; rw [if_neg fault, if_pos held]
      rw [nothing, Option.none_or]
    · have states : p.stopRelease r = some ⟨box, ⟨none, none⟩, 0, decide (p.here = p.geo.haven)⟩ := by
        unfold Fc4.stopRelease
        by_cases fault : r = .axisFault
        · simp only [holds, if_pos fault] at differs; simp only [box, if_pos fault]; rw [if_neg differs]
        · simp only [holds, if_neg fault] at differs; simp only [box, if_neg fault]; rw [if_neg differs]
      rw [states, Option.some_or]
  · intro m noFlags aborting
    exact ⟨fun idle => Meas.abort_idle p.now idle, fun active => Meas.abort_active p.now active, fun due state =>
      ⟨fun between => Meas.abort_between p.now state between, fun final => Meas.abort_final p.now state final,
        fun abort => Meas.abort_abort p.now state abort, fun reset => Meas.abort_reset p.now state reset⟩⟩

/-! ### CLEAR -/

theorem Fc4.stopSettled_iff (p : Fc4) : p.stopSettled = true ↔
    (p.motion.ax.inPosition = true ∨ p.motion.ax.fault = true) ∧ (p.motion.ay.inPosition = true ∨ p.motion.ay.fault = true) ∧
      p.motion.axis = .standing ∧ p.motion.zState = .raised ∧ p.meas.state = .idle := by
  simp [Fc4.stopSettled, Fc4.bothStopped, axisStopped, and_assoc]

theorem Fc4.positionTrusted_iff (p : Fc4) : p.positionTrusted = true ↔
    allowed p.geo p.here = true ∧ ∃ b, p.resv.heldBox = some b ∧ inside p.standing b = true := by
  cases box : p.resv.heldBox <;> simp [Fc4.positionTrusted, box]

/-- The stops that no CLEAR leaves (R193). -/
theorem Fc4.judgeClear_final {p : Fc4} (stopped : p.ctl.mode = .stopped)
    (final : p.ctl.reason = .linkCutoff ∨ p.ctl.reason = .dupStation) : p.judgeClear = .notClearable := by
  rcases final with h | h <;> simp [Fc4.judgeClear, stopped, h]

/-- The others are left once they are settled and their cause is gone (R193). -/
theorem Fc4.judgeClear_settled {p : Fc4} (stopped : p.ctl.mode = .stopped)
    (open_ : ¬ (p.ctl.reason = .linkCutoff ∨ p.ctl.reason = .dupStation)) : p.judgeClear =
    if p.stopSettled = true ∧ (p.ctl.reason = .crowded → p.crowded = false) ∧
        (p.ctl.reason = .axisFault → p.anyAxisFault = false ∧ p.positionTrusted = true) then .accepted else .busy := by
  unfold Fc4.judgeClear
  rw [if_pos stopped]
  cases reason : p.ctl.reason <;> simp_all [and_assoc]

/-- Settles O60. -/
theorem clearLeavesASettledStop : Obligations.ClearLeavesASettledStop := by
  intro s dt target heard aimed p reason stopped settled trusted final clear cleared done
  have mode : s.part.ctl.mode = p.ctl.mode := rfl
  have judged : ∀ u o, p.judgeClear = o → (if o = .accepted then p.clearStop else p) = u → done u o := by
    intro u o judge h
    refine (sequencerRow_heard heard _).trans ?_
    rw [if_pos (show target = p.own ∨ target = 0 from aimed)]
    dsimp only
    rw [judge, h]
  have isClear : ∀ (stop : stopped) (open_ : ¬ final), p.judgeClear = if clear then .accepted else .busy := by
    intro stop open_
    rw [Fc4.judgeClear_settled (p := p) stop open_]
    refine if_congr ?_ rfl rfl
    have faultless : p.anyAxisFault = false ↔ p.motion.ax.fault = false ∧ p.motion.ay.fault = false := by
      simp [Fc4.anyAxisFault]
    rw [p.stopSettled_iff, p.positionTrusted_iff, faultless]
    simp only [clear, settled, trusted, stop, open_, not_false_eq_true, true_and, and_assoc]
    exact Iff.rfl
  refine ⟨fun stop isFinal => judged _ _ (Fc4.judgeClear_final stop isFinal) (if_neg (by simp)), fun isClear' fault => ?_,
    fun isClear' other => ?_, fun unclear open_ => ?_⟩
  · have ⟨stop, notFinal, _⟩ := isClear'
    refine judged _ .accepted ((isClear stop notFinal).trans (if_pos isClear')) ?_
    rw [if_pos rfl, Fc4.clearStop, if_pos (show p.ctl.reason = .axisFault from fault)]
  · have ⟨stop, notFinal, _⟩ := isClear'
    refine judged _ .accepted ((isClear stop notFinal).trans (if_pos isClear')) ?_
    rw [if_pos rfl, Fc4.clearStop, if_neg (show ¬ p.ctl.reason = .axisFault from other)]
  · have busy : p.judgeClear = .busy := by
      by_cases stop : stopped
      · exact (isClear stop fun isFinal => open_ ⟨stop, isFinal⟩).trans (if_neg unclear)
      · exact if_neg stop
    exact judged _ .busy busy (if_neg (by simp))

end Sys2Proof.Machine
end

section
/-! PROOF. The own frames that complete, and what their completion brings about (chapters 01, 03, 04, 05, 09). O12 to O16. -/

namespace Sys2Proof.Machine

/-! ### Completion -/

theorem Fc4.ownFrame_of {p : Fc4} {f : OwnFrame} (receives : p.receiving = true) (line : p.link.onLine = some f)
    {k : FrameKind} (kind : f.content.kind = k) : p.ownFrame k = some f := by
  simp [Fc4.ownFrame, receives, line, kind, Option.filter]

/-- The link after a passing own copy, but for the slot. -/
def Fc4.completedLink (p : Fc4) : Link :=
  { p.link with onLine := none, seq := p.link.seq + 1, fails := 0, idleFrom := p.now + us 3 }

/-- A passing own copy empties the frame's slot, unless it was filled again (R14, R15). -/
theorem Fc4.complete_of {p : Fc4} {f : OwnFrame} (line : p.link.onLine = some f) : p.complete =
    { p with link := if f.refilled then p.completedLink else p.completedLink.emptySlot f.content.kind } := by
  have empty : ∀ (l : Link) (k : FrameKind) (t : Time), { l.emptySlot k with idleFrom := t } = ({ l with idleFrom := t }).emptySlot k := by
    intro l k t; cases k <;> rfl
  simp only [Fc4.complete, Fc4.lineUsed, Link.completeFrame, line, if_true]
  split
  · rfl
  · rw [empty]; rfl

/-- Settles O12. -/
theorem plainOwnFramesComplete : Obligations.PlainOwnFramesComplete := by
  intro s dt f receives line p l
  have completes := Fc4.complete_of (p := p) line
  have own : ∀ {k}, f.content.kind = k → p.ownFrame k = some f := Fc4.ownFrame_of receives line
  refine ⟨fun content => ?_, fun content => ?_, fun x content => ?_, fun x content => ?_⟩
  · show execBeaconSent dt s = _
    unfold execBeaconSent
    refine rowEffect_of ?_
    rw [show s.part.elapse dt = p from rfl, own (k := .beacon) (by rw [content]; rfl), completes, content]
    rfl
  · show execStatusSent dt s = _
    unfold execStatusSent
    refine rowEffect_of ?_
    rw [show s.part.elapse dt = p from rfl, own (k := .status) (by rw [content]; rfl), completes, content]
    rfl
  · show execTouchSent dt s = _
    unfold execTouchSent
    refine rowEffect_of ?_
    rw [show s.part.elapse dt = p from rfl, own (k := .touch) (by rw [content]; rfl), completes, content]
    rfl
  · show execAskSent dt s = _
    unfold execAskSent
    refine rowEffect_of ?_
    rw [show s.part.elapse dt = p from rfl, own (k := .ask) (by rw [content]; rfl), completes, content]
    dsimp only [Fc4.recordAskSent]
    cases f.withdrawn <;> rfl

/-! ### RELEASE and CLAIM -/

/-- Force and return switches keep to the held lines; connections all open are broken (R160). -/
theorem Fc4.enforceOwnLines_eq (q : Fc4) :
    let force := q.meas.forceSw.filter (holdsLine q.resv.heldLines)
    let ret := q.meas.retSw.filter (holdsLine q.resv.heldLines)
    q.enforceOwnLines = { q with
      meas := { q.meas with forceSw := force, retSw := ret }
      pair := if force.isNone && ret.isNone && q.meas.senseSw.isNone then
          { q.pair with rdv := q.pair.rdv.map (fun x : Rendezvous => { x with connected := false }) }
        else q.pair } := by
  intro force ret
  have sense : q.meas.senseSw.filter (fun _ => true) = q.meas.senseSw := by cases q.meas.senseSw <;> rfl
  simp only [Fc4.enforceOwnLines, Fc4.noteSwitches, Meas.enforceLines, sense]
  split <;> rfl

/-- A MOVE claim and its slot lose the lines that are no longer held (log 47). -/
theorem Fc4.claimLosesLines_eq (q : Fc4) (kept : LineRoles) : q.claimLosesLines kept =
    if q.resv.claim.map Claim.kind = some .move then { q with
      resv := { q.resv with claim := q.resv.claim.map (fun c => { c with lines := linesWithin kept c.lines }) }
      link := { q.link with claim := q.link.claim.map (fun f => { f with lines := linesWithin kept f.lines }) } }
    else q := by
  cases claim : q.resv.claim with
  | none => simp [Fc4.claimLosesLines, claim]
  | some c => by_cases move : c.kind = .move <;> simp [Fc4.claimLosesLines, claim, move]

theorem restLines_eq (r : LineRests) (dropped : Line → Bool) (t : Time) : restLines r dropped t =
    ⟨if dropped .ml1 then some t else r.ml1, if dropped .ml2 then some t else r.ml2,
     if dropped .ml3 then some t else r.ml3, if dropped .ml4 then some t else r.ml4⟩ := by
  have each := restOf_restLines r dropped t
  exact congr (congr (congr (congrArg LineRests.mk (each .ml1)) (each .ml2)) (each .ml3)) (each .ml4)

/-- Settles O13. -/
theorem ownReleaseCompletes : Obligations.OwnReleaseCompletes := by
  intro s dt f r receives line content p l dropped rest force ret keep moving slots
  have becomes : exec (.releaseCompleted dt) s = .next { s with part := p.releaseCompletes r } := by
    show execReleaseCompleted dt s = _
    unfold execReleaseCompleted
    refine rowEffect_of ?_
    rw [show s.part.elapse dt = p from rfl, Fc4.ownFrame_of (p := p) receives line (k := .release) (by rw [content]; rfl)]
    simp only [content]
  have taken : p.complete.takeRelease r = { p with
      link := slots, resv := { p.resv with heldBox := some r.box, heldLines := r.lines }
      view := { p.view with rests := ⟨rest .ml1 p.view.rests.ml1, rest .ml2 p.view.rests.ml2,
        rest .ml3 p.view.rests.ml3, rest .ml4 p.view.rests.ml4⟩ } } := by
    rw [Fc4.complete_of (p := p) line, content, Fc4.takeRelease, restLines_eq]
    rfl
  rw [becomes, Fc4.releaseCompletes, taken, Fc4.enforceOwnLines_eq, Fc4.claimLosesLines_eq]
  by_cases move : p.resv.claim.map Claim.kind = some .move
  · simp only [moving, if_pos move]
    rfl
  · simp only [moving, if_neg move]
    rfl

/-- The row of the own CLAIM's completion (R47). -/
theorem exec_claimGranted {s : State} {dt : Time} {f : OwnFrame} {c : ClaimFill} (receives : s.part.receiving = true)
    (line : s.part.link.onLine = some f) (content : f.content = .claim c) :
    exec (.claimGranted dt) s = .next { s with part := (s.part.elapse dt).claimCompletes f c } := by
  show execClaimGranted dt s = _
  unfold execClaimGranted
  refine rowEffect_of ?_
  rw [Fc4.ownFrame_of (p := s.part.elapse dt) receives line (k := .claim) (by rw [content]; rfl)]
  simp only [content]

theorem Fc4.claimCompletes_granted {p : Fc4} {f : OwnFrame} {c : ClaimFill} {k : Claim} (stands : f.withdrawn = false)
    (claim : p.resv.claim = some k) : p.claimCompletes f c =
    ((p.complete.takeClaim c).enforceOwnLines.reportGrant k c.lines).flushRelease.dropLinesIfDone.closeCheck.recheck := by
  simp only [Fc4.claimCompletes, stands, claim]

theorem Fc4.claimCompletes_stray {p : Fc4} {f : OwnFrame} {c : ClaimFill} (stray : f.withdrawn = true ∨ p.resv.claim = none) :
    p.claimCompletes f c = ((p.complete.takeClaim c).enforceOwnLines.strayGrant
      p.resv.heldLines).flushRelease.dropLinesIfDone.closeCheck.recheck := by
  rcases stray with withdrawn | none
  · simp only [Fc4.claimCompletes, withdrawn]
  · simp only [Fc4.claimCompletes, none]
    cases f.withdrawn <;> rfl

/-- The SOURCE's connections are made, and the waiting measurement is started, or the grant is noted alone (R94). -/
theorem Fc4.sourceLines_eq {q : Fc4} {r : Rendezvous} (paired : q.pair.rdv = some r) (lines : LineRoles) :
    let noted := { r with forceLine := lines.force, retLine := lines.ret }
    let made : Fc4 := { q with
      meas := { q.meas with forceSw := lines.force, retSw := lines.ret }
      pair := { q.pair with rdv := some { noted with connected := true, state := .joinedWait } } }
    q.sourceLines lines =
      if r.state = .linking ∧ r.role = .source ∧ q.motion.zState = .landed ∧ q.resv.heldLines = lines then
        if r.joinedHeard then made.startMeasuring else made
      else { q with pair := { q.pair with rdv := some noted } } := by
  intro noted made
  simp only [Fc4.sourceLines, paired, Fc4.mapRdv, Option.map_some]
  rfl

/-- Settles O14. -/
theorem ownClaimCompletes : Obligations.OwnClaimCompletes := by
  refine ⟨fun s dt f c receives line content => ?_, fun q lines => ⟨fun unpaired => ?_, fun r paired => ?_⟩⟩
  · intro p l force ret g ended stands becomes
    have granted : (p.complete.takeClaim c).enforceOwnLines = g := by
      rw [Fc4.complete_of (p := p) line, content, Fc4.takeClaim, Fc4.enforceOwnLines_eq]
      rfl
    have row : exec (.claimGranted dt) s = .next { s with part := p.claimCompletes f c } :=
      exec_claimGranted receives line content
    have stray : (f.withdrawn = true ∨ p.resv.claim = none) → becomes (g.strayGrant p.resv.heldLines) := by
      intro h
      show exec (.claimGranted dt) s = _
      rw [row, Fc4.claimCompletes_stray h, granted]
    have keeps : ((decide (g.ctl.mode = .stopped) && g.ctl.axisFaulted) || g.resv.claim.isSome) = true ↔ stands := by
      simp only [Bool.or_eq_true, Bool.and_eq_true, decide_eq_true_eq]
      exact Iff.rfl
    refine ⟨fun k live claim move => ?_, fun k live claim lineKind => ?_, fun h still => ?_, fun h restores => ?_⟩
    · show exec (.claimGranted dt) s = _
      rw [row, Fc4.claimCompletes_granted live claim, granted]
      simp only [Fc4.reportGrant, move]
      rfl
    · show exec (.claimGranted dt) s = _
      rw [row, Fc4.claimCompletes_granted live claim, granted]
      simp only [Fc4.reportGrant, lineKind]
      rfl
    · have alone : g.strayGrant p.resv.heldLines = g := if_pos (keeps.2 still)
      exact alone ▸ stray h
    · have released : g.strayGrant p.resv.heldLines = g.releaseDue (.strayGrant p.resv.heldLines) := if_neg (mt keeps.1 restores)
      exact released ▸ stray h
  · simp only [Fc4.sourceLines, unpaired]
  · intro noted makes made
    have becomes := Fc4.sourceLines_eq paired lines
    exact ⟨fun no => becomes.trans (if_neg no),
      fun yes quiet => becomes.trans ((if_pos yes).trans (if_neg (by simp [quiet]))),
      fun yes heard => becomes.trans ((if_pos yes).trans (if_pos heard))⟩

/-! ### PAIR frames -/

/-- When a SOURCE drops its lines (R52, R97, R101). -/
theorem Fc4.dropLinesIfDone_eq (q : Fc4) :
    let drops := ∃ r, q.pair.rdv = some r ∧ r.state = .finishing ∧ r.role = .source ∧ r.connected = false ∧
      (r.ending = none ∨ r.endingDone = true) ∧ q.comingLines ≠ ⟨none, none⟩
    (drops → q.dropLinesIfDone = q.releaseDue .linesDropped) ∧ (¬ drops → q.dropLinesIfDone = q) := by
  intro drops
  cases rdv : q.pair.rdv with
  | none => simp [Fc4.dropLinesIfDone, drops, rdv]
  | some r =>
    have test : (r.state = .finishing ∧ r.role = .source ∧ r.connected = false ∧ r.endingOver = true ∧
        ¬ noLines q.comingLines = true) ↔ drops := by
      simp only [drops, rdv, Option.some.injEq, exists_eq_left', Rendezvous.endingOver, Bool.or_eq_true,
        Option.isNone_iff_eq_none, noLines_iff, ne_eq]
    have becomes : q.dropLinesIfDone = if r.state = .finishing ∧ r.role = .source ∧ r.connected = false ∧
        r.endingOver = true ∧ ¬ noLines q.comingLines = true then q.releaseDue .linesDropped else q := by
      simp only [Fc4.dropLinesIfDone, rdv]
    rw [becomes]
    exact ⟨fun h => if_pos (test.2 h), fun h => if_neg (mt test.1 h)⟩

/-- Settles O15. -/
theorem ownPairFrameCompletes : Obligations.OwnPairFrameCompletes := by
  refine ⟨fun s dt f x receives line content => ?_, fun q => q.dropLinesIfDone_eq⟩
  intro p l ended
  show execPairSent dt s = _
  unfold execPairSent
  refine rowEffect_of ?_
  rw [show s.part.elapse dt = p from rfl, Fc4.ownFrame_of (p := p) receives line (k := .pair) (by rw [content]; rfl)]
  simp only [content]
  rw [Fc4.pairCompletes, Fc4.complete_of (p := p) line, content]
  rfl

/-! ### Results -/

/-- The trigger of the packing (R168). -/
theorem Fc4.packingTrigger_iff (q : Fc4) : q.packingTrigger = true ↔
    4 ≤ q.results.queue.length ∨ ∃ o rest, q.results.queue = o :: rest ∧ o.joined + ms 20 ≤ q.now := by
  unfold Fc4.packingTrigger
  split
  · rename_i empty; simp [empty]
  · rename_i o rest queue
    simp only [Bool.or_eq_true, decide_eq_true_eq, queue, List.cons.injEq]
    constructor
    · rintro (four | old)
      · exact .inl four
      · exact .inr ⟨o, rest, ⟨rfl, rfl⟩, old⟩
    · rintro (four | ⟨_, _, ⟨rfl, rfl⟩, old⟩)
      · exact .inl four
      · exact .inr old

theorem Fc4.testPacking_fills {q : Fc4} (empty : q.link.result = false) (trigger : q.packingTrigger = true) :
    q.testPacking = { q with link := { q.link with result := true } } := by
  simp only [Fc4.testPacking, empty, trigger, Bool.not_false, Bool.and_self, if_true]
  rfl

theorem Fc4.testPacking_waits {q : Fc4} (h : q.link.result = true ∨ ¬ q.packingTrigger = true) : q.testPacking = q := by
  refine if_neg ?_
  rw [Bool.and_eq_true, Bool.not_eq_true']
  rintro ⟨empty, trigger⟩
  rcases h with filled | no
  · rw [empty] at filled; cases filled
  · exact no trigger

@[simp] theorem Fc4.testPacking_now (q : Fc4) : q.testPacking.now = q.now := by unfold Fc4.testPacking; split <;> rfl

/-- A record that joins the tail leaves the trigger standing, so the test of the last record is that of all. -/
theorem Fc4.testPacking_join (q : Fc4) (more : List Queued) :
    ({ q.testPacking with
      results := { q.testPacking.results with queue := q.testPacking.results.queue ++ more } } : Fc4).testPacking =
    ({ q with results := { q.results with queue := q.results.queue ++ more } } : Fc4).testPacking := by
  by_cases filled : q.link.result = true
  · rw [Fc4.testPacking_waits (q := q) (.inl filled)]
  · by_cases trigger : q.packingTrigger = true
    · have still : ({ q with results := { q.results with queue := q.results.queue ++ more } } : Fc4).packingTrigger = true := by
        rw [Fc4.packingTrigger_iff] at trigger ⊢
        rcases trigger with four | ⟨o, rest, queue, old⟩
        · exact .inl (by simp only [List.length_append]; omega)
        · exact .inr ⟨o, rest ++ more, by simp [queue], old⟩
      rw [Fc4.testPacking_fills (q := q) (by simpa using filled) trigger,
        Fc4.testPacking_waits (.inl rfl), Fc4.testPacking_fills (by simpa using filled) still]
    · rw [Fc4.testPacking_waits (q := q) (.inr trigger)]

/-- Records that join one by one join together (R167). -/
theorem Fc4.foldl_joinQueue (r : ResultRecord) (rs : List ResultRecord) (q : Fc4) : (r :: rs).foldl Fc4.joinQueue q =
    ({ q with results := { q.results with queue := q.results.queue ++ (r :: rs).map (fun r => ⟨r, q.now⟩) } } : Fc4).testPacking := by
  induction rs generalizing r q with
  | nil => rfl
  | cons r' rs ih =>
    obtain ⟨u, joined⟩ : ∃ u : Fc4, u = { q with results := { q.results with queue := q.results.queue ++ [⟨r, q.now⟩] } } :=
      ⟨_, rfl⟩
    have first : q.joinQueue r = u.testPacking := by rw [joined]; rfl
    rw [List.foldl_cons, ih, first, Fc4.testPacking_join, Fc4.testPacking_now, joined]
    simp only [List.append_assoc, List.map_cons, List.singleton_append]

/-- A FINISHED entry that holds its result. -/
def holdsResult (e : Entry) : Bool := decide (e.st = .finished ∧ e.held.isSome = true)

theorem holdsResult_iff (e : Entry) : holdsResult e = true ↔ isFinished e = true ∧ ∃ r, e.held = some r := by
  simp [holdsResult, isFinished, Option.isSome_iff_exists]

/-- The entries whose held results there is room for, in the order of the list. -/
def leavingEntries (l : List Entry) (room : Nat) : List Entry := (l.filter holdsResult).take room

theorem mem_leavingEntries {l : List Entry} {room : Nat} {e : Entry} (h : e ∈ leavingEntries l room) : e ∈ l :=
  List.mem_of_mem_filter (List.mem_of_mem_take h)

theorem leavingEntries_leave {e : Entry} (rest : List Entry) (n : Nat) (holds : holdsResult e = true) :
    leavingEntries (e :: rest) (n + 1) = e :: leavingEntries rest n := by
  rw [leavingEntries, List.filter_cons_of_pos holds, List.take_succ_cons]; rfl

theorem leavingEntries_stay {e : Entry} (rest : List Entry) {room : Nat} (stays : holdsResult e = true → room = 0) :
    leavingEntries (e :: rest) room = leavingEntries rest room := by
  by_cases holds : holdsResult e = true
  · simp [leavingEntries, stays holds]
  · rw [leavingEntries, List.filter_cons_of_neg holds]; rfl

/-- The FINISHED entries that hold a result leave in list order, as far as there is room (R75). -/
theorem takeFinished_eq (l : List Entry) (room : Nat) (ids : (l.map Entry.id).Nodup) : takeFinished l room =
    (l.filter (fun e => !decide (e.id ∈ (leavingEntries l room).map Entry.id)), (leavingEntries l room).filterMap Entry.held) := by
  induction l generalizing room with
  | nil => simp [takeFinished, leavingEntries]
  | cons e rest ih =>
    rw [List.map_cons, List.nodup_cons] at ids
    obtain ⟨new, ids⟩ := ids
    have other : ∀ o ∈ rest, o.id ≠ e.id := fun o listed same => new (List.mem_map.2 ⟨o, listed, same⟩)
    by_cases leaves : holdsResult e = true ∧ 0 < room
    · obtain ⟨holds, some_⟩ := leaves
      obtain ⟨n, rfl⟩ : ∃ n, room = n + 1 := ⟨room - 1, by omega⟩
      obtain ⟨finished, r, held⟩ := (holdsResult_iff e).1 holds
      have taken : takeFinished (e :: rest) (n + 1) = ((takeFinished rest n).1, r :: (takeFinished rest n).2) := by
        simp only [takeFinished, finished, held]
      have others : rest.filter (fun o => !decide (o.id ∈ ((e :: leavingEntries rest n).map Entry.id))) =
          rest.filter (fun o => !decide (o.id ∈ (leavingEntries rest n).map Entry.id)) :=
        List.filter_congr fun o listed => by simp [other o listed]
      rw [taken, ih n ids, leavingEntries_leave rest n holds, List.filterMap_cons, held, List.filter_cons_of_neg (by simp), others]
    · have stays : takeFinished (e :: rest) room = (e :: (takeFinished rest room).1, (takeFinished rest room).2) := by
        rw [takeFinished]
        exact fun n r finished size held => leaves ⟨(holdsResult_iff e).2 ⟨finished, r, held⟩, by omega⟩
      have absent : e.id ∉ (leavingEntries rest room).map Entry.id := by
        intro listed
        obtain ⟨o, taken, same⟩ := List.mem_map.1 listed
        exact other o (mem_leavingEntries taken) same
      rw [stays, ih room ids, leavingEntries_stay rest (fun holds => by by_contra some_; exact leaves ⟨holds, Nat.pos_of_ne_zero some_⟩),
        List.filter_cons_of_pos (by simpa using absent)]

/-- Settles O16. -/
theorem resultsLeaveTheQueue : Obligations.ResultsLeaveTheQueue := by
  intro s dt p l
  refine ⟨fun f n receives line content => ?_, fun q rest queue old => ?_, fun q => ?_⟩
  · show execResultSent dt s = _
    unfold execResultSent
    refine rowEffect_of ?_
    rw [show s.part.elapse dt = p from rfl, Fc4.ownFrame_of (p := p) receives line (k := .result) (by rw [content]; rfl)]
    simp only [content]
    rw [Fc4.resultsLeave, Fc4.complete_of (p := p) line, content]
    rfl
  · have aged : p.packingTrigger = true := p.packingTrigger_iff.2 (.inr ⟨q, rest, queue, old⟩)
    have tested : exec (.resultAgeTrigger dt) s = .next { s with part := p.testPacking } := by
      show execResultAgeTrigger dt s = _
      unfold execResultAgeTrigger
      refine rowEffect_of ?_
      rw [show s.part.elapse dt = p from rfl, show p.results.queue = q :: rest from queue]
      exact if_pos old
    rw [tested]
    cases empty : p.link.result with
    | false => rw [Fc4.testPacking_fills empty aged]
    | true =>
      have kept : { p.link with result := true } = p.link := by rw [← empty]
      rw [Fc4.testPacking_waits (.inl empty), kept]
  · intro trigger
    refine ⟨fun empty due => Fc4.testPacking_fills empty (q.packingTrigger_iff.2 due),
      fun h => Fc4.testPacking_waits (h.imp_right (mt q.packingTrigger_iff.1)), fun ids => ?_⟩
    intro holding leaving given
    have taken := takeFinished_eq q.work.list (64 - q.results.queue.length) ids
    have handed : q.handOver = (leaving.filterMap Entry.held).foldl Fc4.joinQueue
        (q.mapList (fun _ => q.work.list.filter (fun e => !decide (e.id ∈ leaving.map Entry.id)))) := by
      rw [Fc4.handOver]
      show (takeFinished q.work.list (64 - q.results.queue.length)).2.foldl _
        (q.mapList fun _ => (takeFinished q.work.list (64 - q.results.queue.length)).1) = _
      rw [taken]
      rfl
    refine ⟨fun none => ?_, fun some_ => ?_⟩
    · rw [handed, none]
      simp [Fc4.mapList]
    · obtain ⟨e, more, first⟩ := List.exists_cons_of_ne_nil some_
      have holds : holdsResult e = true := by
        have listed : e ∈ leaving := by rw [first]; exact List.mem_cons_self
        exact List.of_mem_filter (List.mem_of_mem_take listed)
      obtain ⟨-, r, held⟩ := (holdsResult_iff e).1 holds
      have records : leaving.filterMap Entry.held = r :: more.filterMap Entry.held := by
        rw [first, List.filterMap_cons, held]
      have stamped : leaving.filterMap (fun e => e.held.map (fun r => (⟨r, q.now⟩ : Queued))) =
          (r :: more.filterMap Entry.held).map (fun r => ⟨r, q.now⟩) := by
        rw [← records, List.map_filterMap]
      rw [handed, records, Fc4.foldl_joinQueue]
      simp only [given, stamped]
      rfl

end Sys2Proof.Machine
end

section
/-! PROOF. Faults of the own frame and of the line, and the timers of the link (chapter 01). O17 to O20. -/

namespace Sys2Proof.Machine

/-! ### The own frame's failures -/

/-- What a failure that is counted does (R16). -/
def Fc4.counted (q : Fc4) : Fc4 :=
  if q.link.fails < 2 then { q with link := { q.link with fails := q.link.fails + 1 } }
  else if working q.ctl.mode then ({ q with link := { q.link with fails := 0 } } : Fc4).enterStopped .linkFault
  else { q with link := { q.link with fails := 0 } }

theorem Fc4.countFailure_eq (q : Fc4) : q.countFailure = q.counted := by
  have third : q.link.fails + 1 < 3 ↔ q.link.fails < 2 := by omega
  simp only [Fc4.countFailure, Fc4.counted, third]

/-- An own frame is on the line, where the receiver judges it. -/
theorem Fc4.sendsOwn {p : Fc4} {f : OwnFrame} (receives : p.receiving = true) (line : p.link.onLine = some f) :
    (p.receiving && p.link.onLine.isSome) = true := by simp [receives, line]

/-- Settles O17. -/
theorem ownFrameFailuresAreCounted : Obligations.OwnFrameFailuresAreCounted := by
  intro s dt f receives line p counted failed broken
  have counts : ∀ q : Fc4, q.countFailure = counted q := Fc4.countFailure_eq
  have sends := Fc4.sendsOwn (p := p) receives line
  refine ⟨?_, ?_⟩
  · have dropped : ({ p with link := p.link.completeFrame false } : Fc4).lineUsed = failed := by
      simp only [Link.completeFrame, show p.link.onLine = some f from line]
      rfl
    show execOwnCopyFail dt s = _
    unfold execOwnCopyFail
    refine rowEffect_of ((onlyIf_of_true _ _ sends).trans ?_)
    rw [show s.part.elapse dt = p from rfl, dropped, counts]
  · show execBitFault dt false s = _
    unfold execBitFault
    refine rowEffect_of ((onlyIf_of_true _ _ sends).trans ?_)
    dsimp only
    rw [counts]
    rfl

/-! ### Duplicates and the cut-off -/

/-- A duplicate acts by mode (R17, R20, R185). -/
theorem Fc4.duplicate_eq (q : Fc4) : q.duplicate =
    if q.ctl.mode = .starting ∨ q.ctl.mode = .cfgFault then { q with ctl := { q.ctl with dupRecorded := true } }
    else if q.ctl.mode = .stopped then
      (if q.ctl.reason = .linkCutoff then q else { q with ctl := { q.ctl with reason := .dupStation } })
    else q.enterStopped .dupStation := by
  unfold Fc4.duplicate
  cases mode : q.ctl.mode <;> simp

/-- The cut-off acts by mode (R18, R20, R185). -/
theorem Fc4.cutOffMode_eq (q : Fc4) : q.cutOffMode =
    if q.ctl.mode = .starting ∨ q.ctl.mode = .cfgFault then { q with ctl := { q.ctl with cutRecorded := true } }
    else if q.ctl.mode = .stopped then
      (if q.ctl.reason = .dupStation then q else { q with ctl := { q.ctl with reason := .linkCutoff } })
    else q.enterStopped .linkCutoff := by
  unfold Fc4.cutOffMode
  cases mode : q.ctl.mode <;> simp

/-- Settles O18. -/
theorem duplicateNumberStopsTheStation : Obligations.DuplicateNumberStopsTheStation := by
  intro s dt p used seen
  have acts : ∀ q : Fc4, q.duplicate = seen q := Fc4.duplicate_eq
  refine ⟨fun heard => ?_, fun f receives line => ?_⟩
  · show execDupStationFrame dt s = _
    unfold execDupStationFrame
    refine rowEffect_of ((onlyIf_of_true _ _ heard).trans ?_)
    rw [acts]
    rfl
  · show execBitFault dt true s = _
    unfold execBitFault
    refine rowEffect_of ((onlyIf_of_true _ _ (Fc4.sendsOwn (p := p) receives line)).trans ?_)
    dsimp only
    rw [if_pos rfl, acts]
    rfl

/-- Settles O19. -/
theorem cutOffStopsTheStation : Obligations.CutOffStopsTheStation := by
  intro s dt receives uncut p q
  have cuts : (p.receiving && !p.link.cutOff) = true := by
    rw [Bool.and_eq_true, Bool.not_eq_true']; exact ⟨receives, uncut⟩
  show execTransmitterCutOff dt s = _
  unfold execTransmitterCutOff
  refine rowEffect_of ((onlyIf_of_true _ _ cuts).trans ?_)
  rw [Fc4.cutOffMode_eq]
  rfl

/-! ### LINK_DOWN, a bad frame and the beacon timer -/

/-- Settles O20. -/
theorem linkDownBadFrameAndBeaconTimer : Obligations.LinkDownBadFrameAndBeaconTimer := by
  intro s dt p unsure
  refine ⟨fun hears => ?_, fun t quiet receives down => ⟨fun long since => ?_, fun early => ?_⟩, fun heard => ?_,
    fun due timer expired => ?_⟩
  · show execLinkDownEntry dt s = _
    unfold execLinkDownEntry
    refine rowEffect_of ((onlyIf_of_true _ _ (show (s.part.elapse dt).hearing = true from hears)).trans ?_)
    rw [show s.part.elapse dt = p from rfl]
    unfold Link.holdJoin
    dsimp only
    cases p.link.join <;> simp
  · have ends : (p.receiving && p.linkDownOver quiet) = true := by
      have down : p.link.linkDown = some t := down
      simp only [Fc4.linkDownOver, down, Bool.and_eq_true, decide_eq_true_eq]
      exact ⟨receives, long, since⟩
    show execLinkDownEnd ⟨dt, quiet⟩ s = _
    unfold execLinkDownEnd
    refine rowEffect_of ((onlyIf_of_true _ _ ends).trans ?_)
    rw [show s.part.elapse dt = p from rfl]
    unfold Link.restartJoin
    cases join : p.link.join <;> rfl
  · have waits : (p.receiving && p.linkDownOver quiet) = false := by
      have down : p.link.linkDown = some t := down
      simp only [Fc4.linkDownOver, down, Bool.and_eq_false_iff, decide_eq_false_iff_not, not_le]
      exact .inr early
    show execLinkDownEnd ⟨dt, quiet⟩ s = _
    unfold execLinkDownEnd
    exact rowEffect_of (onlyIf_of_false _ _ waits)
  · show execCheckFailure dt s = _
    unfold execCheckFailure
    exact rowEffect_of ((onlyIf_of_true _ _ heard).trans rfl)
  · have past : p.beaconExpired = some due := by
      have timer : p.link.beaconDue = some due := timer
      simp only [Fc4.beaconExpired, timer, Option.filter, decide_eq_true expired, if_true]
    refine ⟨?_, by simp [Fc4.fillBeacon, Link.fillBeacon], by simp [Fc4.fillBeacon]; rfl, rfl⟩
    show execBeaconTimer dt s = _
    unfold execBeaconTimer
    refine rowEffect_of ?_
    rw [show s.part.elapse dt = p from rfl, past]

end Sys2Proof.Machine
end

section
/-! PROOF. Samples and timings of a measurement (chapter 08). O53 to O55. -/

namespace Sys2Proof.Machine

/-! ### Ranging -/

theorem nextRange_over (last r : Nat) (tried : List Nat) :
    nextRange last r tried .over = if r < last ∧ r + 1 ∉ tried then some (r + 1) else none := by
  by_cases within : r < last <;> by_cases new : r + 1 ∈ tried <;> simp [nextRange, wantedRange, within, new, Option.filter]

theorem nextRange_under (last r : Nat) (tried : List Nat) :
    nextRange last r tried .under = if 0 < r ∧ r - 1 ∉ tried then some (r - 1) else none := by
  by_cases within : 0 < r <;> by_cases new : r - 1 ∈ tried <;> simp [nextRange, wantedRange, within, new, Option.filter]

theorem nextRange_inRange (last r : Nat) (tried : List Nat) : nextRange last r tried .inRange = none := rfl

/-- A reading out of class goes on at a range beside the current one; every other is accepted (R148). -/
theorem Meas.rangeOn_eq {m : Meas} {r : Nat} (range : m.range = some r) (b : Nat) (now : Time) : m.rangeOn b now =
    let accepted : Bool → Meas := fun out => { m with
      state := .integrating, sum := 0, taken := 0, saturated := false, flags := { m.flags with rangeLimit := out }
      sampleDue := now + us 100 }
    if 60000 < b then (if r < 5 ∧ r + 1 ∉ m.tried then m.goSettling (r + 1) now else accepted true)
    else if b < 3000 then (if 0 < r ∧ r - 1 ∉ m.tried then m.goSettling (r - 1) now else accepted true)
    else accepted false := by
  have current : m.rangeNow = r := by simp [Meas.rangeNow, range]
  unfold Meas.rangeOn
  dsimp only
  rw [current]
  by_cases above : 60000 < b
  · rw [show classifyReading b = .over from if_pos above, nextRange_over, if_pos above]
    split_ifs <;> rfl
  · by_cases below : b < 3000
    · rw [show classifyReading b = .under from (if_neg above).trans (if_pos below), nextRange_under, if_neg above, if_pos below]
      split_ifs <;> rfl
    · rw [show classifyReading b = .inRange from (if_neg above).trans (if_neg below), nextRange_inRange, if_neg above,
        if_neg below]
      rfl

/-! ### Samples -/

theorem exec_converterSample {s : State} {dt : Time} (code : Code) (due : s.part.meas.sampleDue ≤ s.part.now + dt)
    (state : s.part.meas.state = .zeroing ∨ s.part.meas.state = .integrating) : exec (.converterSample dt code) s =
    .next { s with part := { s.part.elapse dt with
      meas := s.part.meas.converterSample code.toNat (s.part.now + dt) } } := by
  have taken : ((s.part.elapse dt).meas.sampleDueIn .zeroing (s.part.elapse dt).now ||
      (s.part.elapse dt).meas.sampleDueIn .integrating (s.part.elapse dt).now) = true := by
    simp only [Meas.sampleDueIn, Bool.or_eq_true, Bool.and_eq_true, decide_eq_true_eq]
    exact state.imp (fun h => ⟨h, due⟩) (fun h => ⟨h, due⟩)
  show execConverterSample dt code s = _
  unfold execConverterSample
  exact rowEffect_of (onlyIf_of_true _ _ taken)

theorem Meas.zeroing_more {m : Meas} {code : Nat} {now : Time} (zeroing : m.state = .zeroing)
    (more : m.taken + 1 < m.samples) : m.converterSample code now =
    { m with sum := m.sum + code, taken := m.taken + 1, sampleDue := now + us 100 } := by
  simp only [Meas.converterSample, zeroing, if_pos more]; rfl

/-- The last sample of ZEROING gives the zero reading (R145). -/
theorem Meas.zeroing_last {m : Meas} {code : Nat} {now : Time} (zeroing : m.state = .zeroing)
    (last : m.samples ≤ m.taken + 1) : m.converterSample code now =
    ({ m with zero := some (average (m.sum + code) m.samples), sum := 0, taken := 0 } : Meas).goSettling m.rangeNow now := by
  simp only [Meas.converterSample, zeroing, if_neg (Nat.not_lt.2 last)]; rfl

theorem Meas.integrating_more {m : Meas} {code : Nat} {now : Time} (integrating : m.state = .integrating)
    (more : m.taken + 1 < m.samples) : m.converterSample code now =
    { m with sum := m.sum + code, taken := m.taken + 1, sampleDue := now + us 100
             saturated := m.saturated || decide (code = 65535) } := by
  simp only [Meas.converterSample, integrating, if_pos more]; rfl

/-- The last sample of INTEGRATING gives the value (R149, R150). -/
theorem Meas.integrating_last {m : Meas} {code : Nat} {now : Time} (integrating : m.state = .integrating)
    (last : m.samples ≤ m.taken + 1) : m.converterSample code now =
    ({ m with sum := m.sum + code, taken := m.taken + 1, sampleDue := now + us 100
              saturated := m.saturated || decide (code = 65535) } : Meas).conclude
      (resistance (phaseMean (m.sum + code) m.samples (m.saturated || decide (code = 65535))) (m.zero.getD 0) m.rangeNow) now := by
  simp only [Meas.converterSample, integrating, if_neg (Nat.not_lt.2 last)]; rfl

/-- The computed value stands with its range, its flags and its verdict, and the final discharge runs (R149, R154, R156). -/
theorem Meas.conclude_eq {m : Meas} {r : Nat} {l : Latched} (range : m.range = some r) (latched : m.latched = some l)
    (a : Arithmetic) (now : Time) : m.conclude a now = { m with
      state := .discharging, stimulus := none, dischargeOn := true, discharge := some ⟨.final, now + us 1000⟩, sum := 0, taken := 0
      flags := { m.flags with offsetClamp := a.offsetClamp, saturated := a.saturated }
      computed := some ⟨a.value, r, if a.value < l.low then .failLow else if l.high < a.value then .failHigh else .pass⟩ } := by
  simp only [Meas.conclude, Meas.goDischarging, Meas.rangeNow, range, latched]; rfl

/-- Settles O53. -/
theorem converterSamplesAreSummed : Obligations.ConverterSamplesAreSummed := by
  intro s dt code k r l due samples range latched p m sum row sat
  have count : m.samples = k := by simp [Meas.samples, m, samples]
  have current : m.rangeNow = r := by simp [Meas.rangeNow, m, range]
  have becomes : ∀ u, (m.state = .zeroing ∨ m.state = .integrating) → m.converterSample code.toNat p.now = u →
      row = .next { s with part := { p with meas := u } } := by
    intro u state h
    rw [← h]
    exact exec_converterSample code due state
  refine ⟨fun zeroing more => becomes _ (.inl zeroing) (Meas.zeroing_more zeroing (by rwa [count])),
    fun zeroing last => becomes _ (.inl zeroing) ((Meas.zeroing_last zeroing (by rwa [count])).trans ?_),
    fun integrating more => becomes _ (.inr integrating) (Meas.integrating_more integrating (by rwa [count])),
    fun integrating last => ?_⟩
  · rw [count, current]
    rfl
  · intro v
    refine becomes _ (.inr integrating) ((Meas.integrating_last integrating (by rwa [count])).trans ?_)
    rw [count, current]
    exact Meas.conclude_eq (by exact range) (by exact latched) _ _

/-! ### Settling -/

theorem Meas.goSettling_eq (m : Meas) (n : Nat) (now : Time) : m.goSettling n now = { m with
    state := .settling, range := some n, stimulus := some n, attempt := 0, sampleA := none, sampleB := none
    tried := if n ∈ m.tried then m.tried else m.tried ++ [n], flags := { m.flags with unsettled := false }
    sampleDue := now + us (if n ≤ 2 then 200 else if n = 3 then 500 else if n = 4 then 2000 else 8000) } := by
  have interval : settleInterval n = us (if n ≤ 2 then 200 else if n = 3 then 500 else if n = 4 then 2000 else 8000) := by
    unfold settleInterval; split_ifs <;> rfl
  rw [Meas.goSettling, interval]
  rfl

/-- Settles O54. -/
theorem settlingRangesTheReading : Obligations.SettlingRangesTheReading := by
  intro s dt code r settling due range p m b ranged
  have current : m.rangeNow = r := by simp [Meas.rangeNow, m, range]
  have ranges : ∀ u : Meas, u.range = some r → u.rangeOn b p.now = ranged u := by
    intro u ru
    rw [Meas.rangeOn_eq ru]
    dsimp only [ranged]
    rw [Meas.goSettling_eq, Meas.goSettling_eq]
    by_cases above : 60000 < b
    · simp only [if_pos above, true_and, OfNat.one_ne_ofNat, false_and, if_false, ne_eq, one_ne_zero,
        not_false_eq_true, decide_true]
    · by_cases below : b < 3000
      · simp only [if_neg above, if_pos below, OfNat.ofNat_ne_one, false_and, if_false, true_and, ne_eq, OfNat.ofNat_ne_zero,
          not_false_eq_true, decide_true]
      · simp only [if_neg above, if_neg below, zero_ne_one, false_and, if_false, ne_eq, not_true_eq_false, decide_false,
          OfNat.zero_ne_ofNat]
  refine ⟨fun empty => ?_, fun a taken => ?_⟩
  · have takes : ((s.part.elapse dt).meas.sampleDueIn .settling (s.part.elapse dt).now &&
        (s.part.elapse dt).meas.sampleA.isNone) = true := by
      simp only [Meas.sampleDueIn, Bool.and_eq_true, decide_eq_true_eq, Option.isNone_iff_eq_none]
      exact ⟨⟨settling, due⟩, empty⟩
    show execSettleSampleA dt code s = _
    unfold execSettleSampleA
    exact rowEffect_of ((onlyIf_of_true _ _ takes).trans rfl)
  · intro agree
    have checks : ((s.part.elapse dt).meas.sampleDueIn .settling (s.part.elapse dt).now &&
        (s.part.elapse dt).meas.sampleA.isSome) = true := by
      have given : (s.part.elapse dt).meas.sampleA = some a := taken
      simp only [Meas.sampleDueIn, Bool.and_eq_true, decide_eq_true_eq, given, Option.isSome_some, and_true]
      exact ⟨settling, due⟩
    have becomes : ∀ u, m.checkB b p.now = u → exec (.settleCheck dt code) s = .next { s with part := { p with meas := u } } := by
      intro u h
      rw [← h]
      show execSettleCheck dt code s = _
      unfold execSettleCheck
      exact rowEffect_of (onlyIf_of_true _ _ checks)
    have test : settled (m.sampleA.getD 0) b = true ↔ agree := by
      rw [taken]; exact decide_eq_true_iff
    refine ⟨fun same => becomes _ ?_, fun differ more => becomes _ ?_, fun differ last => becomes _ ?_⟩
    · rw [Meas.checkB, if_pos (test.2 same)]
      exact ranges _ range
    · rw [Meas.checkB, if_neg (mt test.1 differ), if_pos more, current]
    · rw [Meas.checkB, if_neg (mt test.1 differ), if_neg (Nat.not_lt.2 last)]
      exact ranges _ range

/-! ### Timings -/

/-- A discharge of 200 µs follows the timing (R153). -/
theorem Meas.goBetween_eq (m : Meas) (now : Time) : m.goDischarging .between (now + betweenDischarge) = { m with
    state := .discharging, stimulus := none, discharge := some ⟨.between, now + us 200⟩, dischargeOn := true } := rfl

/-- A counted timing joins the sum, and the last gives the value (R154, R155). -/
theorem Meas.endTiming_counted {m : Meas} (counted : m.counted = true) (t : Option Nat) (stray : Nat) (now : Time) :
    m.endTiming t stray now =
    let m1 := { m with sum := m.sum + t.getD 65535, taken := m.taken + 1, saturated := m.saturated || t.isNone }
    if m.taken + 1 < m.samples then m1.goDischarging .between (now + betweenDischarge)
    else m1.conclude (capacitance (phaseMean m1.sum m.samples m1.saturated) m.rangeNow stray) now := if_pos counted

/-- A ranging timing out of class goes on at a range beside the current one; every other is accepted (R153). -/
theorem Meas.endTiming_ranging {m : Meas} (ranging : ¬ m.counted = true) (t : Option Nat) (stray : Nat) (now : Time) :
    m.endTiming t stray now =
    let next : Nat → Meas := fun n => ({ m with range := some n } : Meas).goDischarging .between (now + betweenDischarge)
    let accepted : Bool → Meas := fun out => ({ m with
      counted := true, sum := 0, taken := 0, saturated := false
      flags := { m.flags with rangeLimit := out } } : Meas).goDischarging .between (now + betweenDischarge)
    if t = none then (if m.rangeNow < 2 ∧ m.rangeNow + 1 ∉ m.tried then next (m.rangeNow + 1) else accepted true)
    else if t.getD 0 < 1000 then (if 0 < m.rangeNow ∧ m.rangeNow - 1 ∉ m.tried then next (m.rangeNow - 1) else accepted true)
    else accepted false := by
  unfold Meas.endTiming
  rw [if_neg ranging]
  dsimp only
  rcases t with _ | t
  · rw [show classifyTiming none = .over from rfl, nextRange_over, if_pos rfl]
    split_ifs <;> rfl
  · by_cases short : t < 1000
    · rw [show classifyTiming (some t) = .under from if_pos short, nextRange_under, if_neg (show ¬ some t = none by simp), Option.getD_some,
        if_pos short]
      split_ifs <;> rfl
    · rw [show classifyTiming (some t) = .inRange from if_neg short, nextRange_inRange, if_neg (show ¬ some t = none by simp), Option.getD_some,
        if_neg short]
      rfl

/-- The discharge under way is over. -/
theorem Fc4.dischargedFor_of {p : Fc4} {purpose : DischargePurpose} {due : Time} (state : p.meas.state = .discharging)
    (discharge : p.meas.discharge = some ⟨purpose, due⟩) (past : due ≤ p.now) : p.dischargedFor purpose = true := by
  simp [Fc4.dischargedFor, Meas.purposeIs, Meas.dischargeOver, state, discharge, past]

/-- Settles O55. -/
theorem timingsAreRangedAndSummed : Obligations.TimingsAreRangedAndSummed := by
  intro s dt k r samples range p m count between' ended
  have number : m.samples = k := by simp [Meas.samples, m, samples]
  have current : m.rangeNow = r := by simp [Meas.rangeNow, m, range]
  have timed : ∀ t, m.endTiming t p.geo.stray p.now = ended t := by
    intro t
    dsimp only [ended]
    by_cases counted : m.counted = true
    · rw [Meas.endTiming_counted counted, if_pos counted, number, current]
      rfl
    · rw [Meas.endTiming_ranging counted, if_neg counted, current]
      dsimp only [Meas.goBetween_eq, between']
      rcases t with _ | t
      · simp
      · by_cases short : t < 1000 <;> simp [short]
  refine ⟨fun timing below => ?_, fun timing above => ?_, fun due state between past => ?_⟩
  · have crosses : (decide ((s.part.elapse dt).meas.state = .timing) &&
        decide ((s.part.elapse dt).meas.timingCount (s.part.elapse dt).now < 65535)) = true := by
      simp only [Bool.and_eq_true, decide_eq_true_eq]; exact ⟨timing, below⟩
    rw [← timed]
    show execTimingCrossing dt s = _
    unfold execTimingCrossing
    exact rowEffect_of (onlyIf_of_true _ _ crosses)
  · have times : (decide ((s.part.elapse dt).meas.state = .timing) &&
        decide (65535 ≤ (s.part.elapse dt).meas.timingCount (s.part.elapse dt).now)) = true := by
      simp only [Bool.and_eq_true, decide_eq_true_eq]; exact ⟨timing, above⟩
    rw [← timed]
    show execTimingTimeout dt s = _
    unfold execTimingTimeout
    exact rowEffect_of (onlyIf_of_true _ _ times)
  · have ends : (s.part.elapse dt).dischargedFor .between = true := Fc4.dischargedFor_of (p := s.part.elapse dt) state between past
    show execBetweenDischargeEnd dt s = _
    unfold execBetweenDischargeEnd
    refine rowEffect_of ((onlyIf_of_true _ _ ends).trans ?_)
    have kept : some r = m.range := range.symm
    show { p with meas := m.goTiming m.rangeNow p.now } = _
    rw [current, Meas.goTiming, kept]

end Sys2Proof.Machine
end

section
/-! PROOF. The ends of the discharges (chapter 08) and what waits for them. O56. -/

namespace Sys2Proof.Machine

/-! ### Operations that leave the measurement record -/

@[simp] theorem Fc4.examine_meas (s : Fc4) : s.examine.meas = s.meas := by
  obtain ⟨_, _, _, _, _, _, _, -, same⟩ := s.examine_examined
  rw [same]

@[simp] theorem Fc4.requestMove_meas (s : Fc4) (who : Requester) (q : Pos) : (s.requestMove who q).meas = s.meas := by
  unfold Fc4.requestMove; dsimp only; split
  · exact s.withdrawClaim_meas
  · rw [Fc4.createClaim_eq, Fc4.examine_meas]; exact s.withdrawClaim_meas

theorem Fc4.testPacking_meas (s : Fc4) : s.testPacking.meas = s.meas := by unfold Fc4.testPacking; split <;> rfl

@[simp] theorem Fc4.produceResult_meas (s : Fc4) (id : Nat) (r : ResultRecord) : (s.produceResult id r).meas = s.meas := by
  unfold Fc4.produceResult; split
  · exact Fc4.testPacking_meas _
  · rfl

@[simp] theorem Fc4.activate_meas (s : Fc4) (e : Entry) : (s.activate e).meas = s.meas := by
  unfold Fc4.activate Fc4.enterClaim; dsimp only; split
  · rfl
  · exact Fc4.requestMove_meas _ _ _

theorem startTurns_meas : ∀ (n : Nat) (s : Fc4), (startTurns n s).meas = s.meas := by
  intro n
  induction n with
  | zero => intro s; rfl
  | succ n ih =>
    intro s
    unfold startTurns
    repeat' split
    · rfl
    · exact s.activate_meas _
    · exact ih _
    · rw [ih, Fc4.produceResult_meas]
    · rfl

@[simp] theorem Fc4.testStart_meas (s : Fc4) : s.testStart.meas = s.meas := startTurns_meas _ s

@[simp] theorem Fc4.answerAsks_meas (s : Fc4) (cause : Nat → ReleaseCause) : (s.answerAsks cause).meas = s.meas :=
  s.releaseDue_meas _

@[simp] theorem Fc4.pauseCheck_meas (s : Fc4) : s.pauseCheck.meas = s.meas := by unfold Fc4.pauseCheck; split <;> rfl

@[simp] theorem Fc4.requeueTouch_meas (s : Fc4) : s.requeueTouch.meas = s.meas := by
  unfold Fc4.requeueTouch; split <;> rfl

theorem Fc4.yieldDrops_meas (s : Fc4) : s.yieldDrops.meas = s.meas := by
  unfold Fc4.yieldDrops; split
  · rw [Fc4.requeueTouch_meas]; exact s.withdrawClaim_meas
  · rfl

@[simp] theorem Fc4.beginYield_meas (s : Fc4) : s.beginYield.meas = s.meas := by
  have cleared : s.yieldClears.pauseCheck.meas = s.meas := by rw [Fc4.pauseCheck_meas]; exact s.yieldDrops_meas
  unfold Fc4.beginYield; dsimp only; split
  · rw [Fc4.testStart_meas, Fc4.answerAsks_meas, cleared]
  · rw [Fc4.requestMove_meas, cleared]

@[simp] theorem Fc4.finishTouch_meas (s : Fc4) (o : TouchOutcome) : (s.finishTouch o).meas = s.meas := by
  unfold Fc4.finishTouch; split
  · exact Fc4.produceResult_meas _ _ _
  · rfl

@[simp] theorem Fc4.liftIfFree_meas (s : Fc4) : s.liftIfFree.meas = s.meas := by
  unfold Fc4.liftIfFree; split
  · split <;> rfl
  · rfl

@[simp] theorem Fc4.dropLinesIfDone_meas (s : Fc4) : s.dropLinesIfDone.meas = s.meas := by
  obtain ⟨_, _, same, -⟩ := s.dropLinesIfDone_becomes
  rw [same]

/-! ### A unit that is off stays off -/

/-- IDLE with the stimulus off and every switch open. -/
def Meas.Off (m : Meas) : Prop := m.state = .idle ∧ m.stimulus = none ∧ m.forceSw = none ∧ m.retSw = none ∧
  m.senseSw = none ∧ m.localIn = false ∧ m.dischargeOn = false

theorem Meas.abortDone_isOff (m : Meas) : m.abortDone.Off := ⟨rfl, rfl, rfl, rfl, rfl, rfl, rfl⟩

theorem Fc4.enterStopped_off {s : Fc4} (h : s.meas.Off) (r : StopReason) : (s.enterStopped r).meas.Off := by
  obtain ⟨idle, -, -, -, -, -, discharge⟩ := h
  obtain ⟨_, _, _, entered, -⟩ := s.enterStopped_eq r
  have state : s.stopMeas.state = .idle := by unfold Fc4.stopMeas; split <;> exact idle
  have closed : s.stopMeas.dischargeOn = false := by unfold Fc4.stopMeas; split <;> exact discharge
  rw [entered]
  show (s.stopMeas.abort s.now).Off
  rw [Meas.abort_idle s.now state]
  exact ⟨state, rfl, rfl, rfl, rfl, rfl, closed⟩

theorem Fc4.endTouch_off {s : Fc4} (h : s.meas.Off) (o : TouchOutcome) : (s.endTouch o).meas.Off := by
  have finished : (s.finishTouch o).meas.Off := by rw [Fc4.finishTouch_meas]; exact h
  unfold Fc4.endTouch
  rw [Fc4.afterTouch_eq]
  split
  · exact Fc4.enterStopped_off finished _
  · split
    · rw [Fc4.beginYield_meas, Fc4.pauseCheck_meas]; exact finished
    · rw [Fc4.testStart_meas, Fc4.pauseCheck_meas]; exact finished

theorem Fc4.closeCheck_off {s : Fc4} (h : s.meas.Off) : s.closeCheck.meas.Off := by
  unfold Fc4.closeCheck
  repeat' split
  · exact Fc4.endTouch_off h _
  all_goals exact h

theorem Fc4.breakLines_off {s : Fc4} (h : s.meas.Off) : s.breakLines.meas.Off := by
  obtain ⟨idle, stimulus, -, -, -, localIn, discharge⟩ := h
  rw [Fc4.breakLines, if_pos idle, Fc4.noteSwitches_meas]
  exact ⟨idle, stimulus, rfl, rfl, rfl, localIn, discharge⟩

theorem Fc4.finishLanded_off {s : Fc4} (h : s.meas.Off) (o : TouchOutcome) : (s.finishLanded o).meas.Off := by
  rw [Fc4.finishLanded_eq, Fc4.dropLinesIfDone_meas, Fc4.liftIfFree_meas]
  refine Fc4.breakLines_off ?_
  obtain ⟨-, -, meas, -⟩ := (s.toFinishing o).dropLineClaim_leaves
  rw [meas, s.toFinishing_meas]
  exact h

theorem Fc4.unitFreed_off {s : Fc4} (h : s.meas.Off) : s.unitFreed.meas.Off := by
  have lifted : (if s.motion.liftWanted then s.beginLift else s).meas.Off := by split <;> exact h
  unfold Fc4.unitFreed
  generalize (if s.motion.liftWanted then s.beginLift else s) = u at lifted ⊢
  dsimp only
  repeat' split
  · exact Fc4.finishLanded_off lifted _
  · refine Fc4.closeCheck_off ?_
    rw [Fc4.dropLinesIfDone_meas, Fc4.liftIfFree_meas]
    exact lifted
  all_goals exact lifted

/-! ### The end of an abort -/

theorem Fc4.noteSwitches_of_off {q : Fc4} (h : q.meas.Off) :
    q.noteSwitches = q.mapRdv (fun r => { r with connected := false }) := by
  obtain ⟨-, -, force, ret, sense, -, -⟩ := h
  simp [Fc4.noteSwitches, force, ret, sense]

theorem Fc4.abortEnded_eq (q : Fc4) : q.abortEnded = ({ q with
    meas := q.meas.abortDone
    pair := { q.pair with rdv := q.pair.rdv.map (fun r => { r with connected := false }) } } : Fc4).unitFreed := by
  rw [Fc4.abortEnded, Fc4.noteSwitches_of_off (q := { q with meas := q.meas.abortDone }) q.meas.abortDone_isOff]
  rfl

/-- A landed touch goes to LIFT where no lift was asked for. -/
theorem Fc4.goLift_landed {q : Fc4} {t : TouchRecord} (touch : q.work.touch = some t) (landed : q.motion.zState = .landed)
    (unasked : q.motion.liftWanted = false) : q.goLift =
    { q with work := { q.work with touch := some { t with stage := .lift } }
             motion := { q.motion with zState := .lifting, descent := none, handed := none } } := by
  rw [Fc4.goLift_low touch (.inr landed)]
  have kept : { q.motion with zState := .lifting, descent := none, handed := none, liftWanted := false } =
      { q.motion with zState := .lifting, descent := none, handed := none } := by rw [← unasked]
  rw [kept]

/-- What a rendezvous in FINISHING does once the unit is free (R101). -/
theorem Fc4.unitFreed_finishing {q : Fc4} {r : Rendezvous} {t : TouchRecord} (paired : q.pair.rdv = some r)
    (touch : q.work.touch = some t) (state : r.state = .finishing) (broken : r.connected = false)
    (landed : t.stage = .measure) (down : q.motion.zState = .landed) (unasked : q.motion.liftWanted = false)
    (idle : q.meas.state = .idle) : q.unitFreed = ({ q with
      work := { q.work with touch := some { t with stage := .lift } }
      motion := { q.motion with zState := .lifting, descent := none, handed := none } } : Fc4).dropLinesIfDone.closeCheck := by
  have frees : q.unitFreed = q.liftIfFree.dropLinesIfDone.closeCheck := by
    simp only [Fc4.unitFreed, unasked, Bool.false_eq_true, if_false, paired, state]
  rw [frees, Fc4.liftIfFree_lifts paired touch state broken idle landed, Fc4.goLift_landed touch down unasked]

/-- What a rendezvous that was ended in MEASURING does once the abort has ended (R101, log 15). -/
theorem Fc4.unitFreed_measuring {q : Fc4} {r : Rendezvous} {o : TouchOutcome} (paired : q.pair.rdv = some r)
    (state : r.state = .measuring) (outcome : r.outcome = some o) (unasked : q.motion.liftWanted = false) :
    q.unitFreed = q.finishLanded o := by
  simp only [Fc4.unitFreed, unasked, Bool.false_eq_true, if_false, paired, state, outcome]

theorem Meas.openLines_of_open {m : Meas} (force : m.forceSw = none) (ret : m.retSw = none) (sense : m.senseSw = none) :
    m.openLines = m := by
  obtain ⟨⟩ := m
  cases force; cases ret; cases sense
  rfl

/-- The ending of a landed rendezvous whose connections are broken, with no LINE claim pending. -/
theorem Fc4.finishLanded_broken {q u : Fc4} {r : Rendezvous} {t : TouchRecord} {o : TouchOutcome}
    (finishing : q.toFinishing o = u) (paired : u.pair.rdv = some r) (touch : u.work.touch = some t)
    (state : r.state = .finishing) (broken : r.connected = false) (landed : t.stage = .measure)
    (down : u.motion.zState = .landed) (unasked : u.motion.liftWanted = false) (off : u.meas.Off)
    (unclaimed : u.lineClaimPending = false) : q.finishLanded o = ({ u with
      work := { u.work with touch := some { t with stage := .lift } }
      motion := { u.motion with zState := .lifting, descent := none, handed := none } } : Fc4).dropLinesIfDone := by
  obtain ⟨idle, -, force, ret, sense, -, -⟩ := off
  have closed : { u.meas with forceSw := none, retSw := none, senseSw := none } = u.meas := by
    exact Meas.openLines_of_open force ret sense
  have unlinked : { r with connected := false } = r := by rw [← broken]
  have kept : u.breakLines = u := by
    rw [Fc4.breakLines_idle paired idle, closed, unlinked, ← paired]
  rw [Fc4.finishLanded_eq, finishing, Fc4.dropLineClaim, if_neg (by rw [unclaimed]; exact Bool.false_ne_true), kept,
    Fc4.liftIfFree_lifts paired touch state broken idle landed, Fc4.goLift_landed touch down unasked]

/-! ### The completed measurement -/

/-- The record at the end of a final discharge, whose line switches may stand (R157). -/
theorem Meas.finish_eq {m : Meas} {l : Latched} (latched : m.latched = some l) : ∃ force ret sense, m.finish = { m with
    state := .idle, owner := none, latched := none, discharge := none, dischargeOn := false, stimulus := none
    breakAtEnd := false, computed := none, localIn := if l.kind = .capr then false else m.localIn
    forceSw := force, retSw := ret, senseSw := sense } := by
  have kind : m.kindNow = l.kind := by rw [Meas.kindNow, latched]; rfl
  unfold Meas.finish
  rw [kind]
  dsimp only
  split
  · exact ⟨none, none, none, rfl⟩
  · exact ⟨m.forceSw, m.retSw, m.senseSw, rfl⟩

theorem Fc4.noteSwitches_paired {u : Fc4} {r : Rendezvous} (paired : u.pair.rdv = some r) :
    ∃ linked, u.noteSwitches = { u with pair := { u.pair with rdv := some { r with connected := linked } } } := by
  unfold Fc4.noteSwitches
  split
  · exact ⟨false, Fc4.mapRdv_of_some paired _⟩
  · refine ⟨r.connected, ?_⟩
    rw [show { r with connected := r.connected } = r from rfl, ← paired]

theorem Fc4.noteSwitches_solo {u : Fc4} (solo : u.pair.rdv = none) : u.noteSwitches = u := by
  unfold Fc4.noteSwitches
  split
  · exact Fc4.mapRdv_of_none solo _
  · rfl

/-- A solo touch takes verdict and value and lifts (R81). -/
theorem Fc4.measured_solo {p : Fc4} {t : TouchRecord} (c : Computed) (owner : p.meas.owner = some .touchList)
    (solo : p.pair.rdv = none) (touch : p.work.touch = some t) (landed : p.motion.zState = .landed) :
    p.measured c = { p with
      meas := p.meas.finish
      work := { p.work with touch := some { t with
        outcome := some c.verdict, meas := some ⟨c.value, c.range, p.meas.flags⟩, stage := .lift } }
      motion := { p.motion with zState := .lifting, descent := none, handed := none, liftWanted := false } } := by
  simp only [Fc4.measured, owner]
  rw [Fc4.noteSwitches_solo (u := { p with meas := p.meas.finish }) solo,
    Fc4.setOutcome_solo (q := { p with meas := p.meas.finish }) touch solo]
  refine Eq.trans (congrArg Fc4.goLift (Fc4.mapTouch_of_some (by rfl) _)) ?_
  exact Eq.trans (Fc4.goLift_low (by rfl) (.inr landed)) rfl

/-- A SOURCE takes the verdict, breaks its connections, fills DONE and lifts (R97). -/
theorem Fc4.measured_paired {p : Fc4} {t : TouchRecord} {r : Rendezvous} (c : Computed)
    (owner : p.meas.owner = some .pairUnit) (paired : p.pair.rdv = some r) (touch : p.work.touch = some t)
    (landed : p.motion.zState = .landed)
    (idle : p.meas.finish.state = .idle) : p.measured c = { p with
      meas := p.meas.finish.openLines
      link := p.link.fillPair ⟨.done, none, r.tag, r.partner⟩
      pair := { p.pair with rdv := some { r with
        outcome := some c.verdict, connected := false, ending := some .done, endingDone := false, state := .finishing } }
      work := { p.work with touch := some { t with
        outcome := some c.verdict, meas := some ⟨c.value, c.range, p.meas.flags⟩, stage := .lift } }
      motion := { p.motion with zState := .lifting, descent := none, handed := none, liftWanted := false } } := by
  obtain ⟨linked, noted⟩ := Fc4.noteSwitches_paired (u := { p with meas := p.meas.finish }) paired
  simp only [Fc4.measured, owner, paired]
  rw [noted, Fc4.setOutcome_paired (by exact touch) (by rfl),
    Fc4.mapTouch_of_some (t := { t with outcome := some c.verdict }) (by rfl),
    Fc4.breakLines_idle (r := { r with connected := linked, outcome := some c.verdict }) (by rfl) (by exact idle)]
  refine Eq.trans (congrArg Fc4.goLift (Fc4.mapRdv_of_some (by rfl) _)) ?_
  exact Eq.trans (Fc4.goLift_low (by rfl) (.inr landed)) rfl

/-! ### What waits for the unit -/

theorem Fc4.unitFreed_solo {q : Fc4} {t : TouchRecord} (solo : q.pair.rdv = none) (touch : q.work.touch = some t)
    (landed : t.stage = .measure) (outcome : t.outcome.isSome = true) :
    q.unitFreed = (if q.motion.liftWanted then q.beginLift else q).goLift := by
  have pair : (if q.motion.liftWanted then q.beginLift else q).pair.rdv = none := by split <;> exact solo
  have work : (if q.motion.liftWanted then q.beginLift else q).work.touch = some t := by split <;> exact touch
  unfold Fc4.unitFreed
  generalize (if q.motion.liftWanted then q.beginLift else q) = u at pair work ⊢
  simp only [pair, work, landed, outcome, and_self, if_true]

theorem Fc4.unitFreed_empty {q : Fc4} (solo : q.pair.rdv = none) (empty : q.work.touch = none) :
    q.unitFreed = if q.motion.liftWanted then q.beginLift else q := by
  have pair : (if q.motion.liftWanted then q.beginLift else q).pair.rdv = none := by split <;> exact solo
  have work : (if q.motion.liftWanted then q.beginLift else q).work.touch = none := by split <;> exact empty
  unfold Fc4.unitFreed
  generalize (if q.motion.liftWanted then q.beginLift else q) = u at pair work ⊢
  simp only [pair, work]

theorem Fc4.startWaiting_empty {q : Fc4} (solo : q.pair.rdv = none) (empty : q.work.touch = none) : q.startWaiting = q := by
  simp only [Fc4.startWaiting, solo, empty]

theorem Fc4.startWaiting_solo {q : Fc4} {t : TouchRecord} {e : Entry} (solo : q.pair.rdv = none)
    (touch : q.work.touch = some t) (entry : q.activeEntry = some e) (landed : t.stage = .measure)
    (unset : t.outcome = none) (down : q.motion.zState = .landed)
    (idle : q.meas.state = .idle) :
    q.startWaiting = { q with meas := q.meas.begin .touchList ⟨e.kind, e.low, e.high, e.hint⟩ q.now } := by
  have able : q.canMeasure = true := by simp only [Fc4.canMeasure, down, idle, decide_true, Bool.and_self]
  simp only [Fc4.startWaiting, solo, touch, entry, landed, unset, and_self, if_true, Fc4.startSolo, able]
  rfl

theorem Fc4.startWaiting_joined {q : Fc4} {r : Rendezvous} (paired : q.pair.rdv = some r) (state : r.state = .joinedWait)
    (joined : r.joinedHeard = true) : q.startWaiting = q.startMeasuring := by
  simp only [Fc4.startWaiting, paired, state, joined, and_self, if_true]

theorem Motion.lift_lifting {m : Motion} (low : m.zState = .landed ∨ m.zState = .lifting) : m.lift.zState = .lifting := by
  rcases low with h | h <;> simp [Motion.lift, h]

theorem Fc4.goLift_lifting {q : Fc4} (low : q.motion.zState = .landed ∨ q.motion.zState = .lifting) :
    q.goLift.motion.zState = .lifting := Motion.lift_lifting low

/-- The ending of a rendezvous in MEASURING once its abort has ended (R101, log 15). -/
theorem Fc4.abortEnded_measuring {q u : Fc4} {r r' : Rendezvous} {t : TouchRecord} {o : TouchOutcome}
    (paired : q.pair.rdv = some r) (state : r.state = .measuring) (outcome : r.outcome = some o)
    (unasked : q.motion.liftWanted = false)
    (finishing : ({ q with
      meas := q.meas.abortDone
      pair := { q.pair with rdv := some { r with connected := false } } } : Fc4).toFinishing o = u)
    (still : u.pair.rdv = some r') (state' : r'.state = .finishing) (broken : r'.connected = false)
    (touch : u.work.touch = some t) (landed : t.stage = .measure) (down : u.motion.zState = .landed)
    (unasked' : u.motion.liftWanted = false) (off : u.meas.Off) (unclaimed : u.lineClaimPending = false) :
    q.abortEnded = ({ u with
      work := { u.work with touch := some { t with stage := .lift } }
      motion := { u.motion with zState := .lifting, descent := none, handed := none } } : Fc4).dropLinesIfDone := by
  rw [Fc4.abortEnded_eq, paired, Option.map_some]
  refine Eq.trans (Fc4.unitFreed_measuring (by rfl) (by exact state) (by exact outcome) (by exact unasked)) ?_
  exact Fc4.finishLanded_broken finishing still touch state' broken landed down unasked' off unclaimed

/-- Settles O56. -/
theorem dischargesEndTheMeasurement : Obligations.DischargesEndTheMeasurement := by
  intro s dt due state past p m
  refine ⟨fun discharge c computed => ?_, fun discharge computed => ?_, fun discharge => ?_, ?_,
    fun q => ⟨fun t e solo touch entry landed unset down idle => ?_, fun r paired waits joined => ?_⟩,
    ?_, ?_⟩
  · have ends : p.dischargedFor .final = true := Fc4.dischargedFor_of state discharge past
    have taken : p.finalDischargeOver = p.measured c := by
      have value : p.meas.computed = some c := computed
      simp only [Fc4.finalDischargeOver, value]
    refine ⟨?_, fun t l owner latched kind keeps solo touch force landed => ?_,
      fun t l r owner latched kind paired touch landed => ?_⟩
    · rw [← taken]
      show execFinalDischargeEnd dt s = _
      unfold execFinalDischargeEnd
      exact rowEffect_of (onlyIf_of_true _ _ ends)
    · rw [Fc4.measured_solo (p := p) c owner solo touch landed]
      have finish : p.meas.finish = { m with
          state := .idle, owner := none, latched := none, discharge := none, dischargeOn := false
          stimulus := none, breakAtEnd := false, computed := none, localIn := false } := by
        have kindNow : p.meas.kindNow = .capr := by
          show (m.latched.map Latched.kind).getD .cont = .capr
          rw [latched]; exact kind
        simp only [Meas.finish, kindNow, if_true]
        exact if_neg (by rw [show p.meas.breakAtEnd = false from keeps]; exact Bool.false_ne_true)
      rw [finish]
      rfl
    · obtain ⟨_, _, _, finish⟩ := Meas.finish_eq (m := p.meas) latched
      rw [Fc4.measured_paired (p := p) c owner paired touch landed (by rw [finish]), finish, if_neg kind]
      rfl
  · have ends : p.dischargedFor .final = true := Fc4.dischargedFor_of state discharge past
    have none_ : p.meas.computed = none := computed
    have aborted : p.finalDischargeOver = p.abortEnded := by simp only [Fc4.finalDischargeOver, none_]
    refine ⟨?_, ?_⟩
    · rw [← aborted]
      show execFinalDischargeEnd dt s = _
      unfold execFinalDischargeEnd
      exact rowEffect_of (onlyIf_of_true _ _ ends)
    · have either : (p.dischargedFor .abort || (p.dischargedFor .final && p.meas.computed.isNone)) = true := by
        rw [ends, none_, Option.isNone_none, Bool.and_self, Bool.or_true]
      show execAbortDischargeEnd dt s = _
      unfold execAbortDischargeEnd
      exact rowEffect_of (onlyIf_of_true _ _ either)
  · have ends : p.dischargedFor .abort = true := Fc4.dischargedFor_of state discharge past
    have either : (p.dischargedFor .abort || (p.dischargedFor .final && p.meas.computed.isNone)) = true := by
      rw [ends, Bool.true_or]
    show execAbortDischargeEnd dt s = _
    unfold execAbortDischargeEnd
    exact rowEffect_of (onlyIf_of_true _ _ either)
  · intro discharge held q
    have ends : (p.ctl.resetHold.isNone && p.dischargedFor .reset) = true := by
      rw [show p.ctl.resetHold = none from held, Fc4.dischargedFor_of (p := p) state discharge past]
      rfl
    refine ⟨?_, fun unasked solo empty => ?_⟩
    · show execResetDischargeEnd dt s = _
      unfold execResetDischargeEnd
      exact rowEffect_of ((onlyIf_of_true _ _ ends).trans rfl)
    · have kept : ¬ q.motion.liftWanted = true := by
        rw [show q.motion.liftWanted = false from unasked]; exact Bool.false_ne_true
      rw [Fc4.unitFreed_empty (q := q) solo empty, if_neg kept]
      exact Fc4.startWaiting_empty (q := q) solo empty
  · exact Fc4.startWaiting_solo solo touch entry landed unset down idle
  · exact Fc4.startWaiting_joined paired waits joined
  · intro q r t o paired touch outcome landed down unasked r' lifted
    have off : q.meas.abortDone.Off := q.meas.abortDone_isOff
    refine ⟨fun finishing => ?_, fun measuring unclaimed => ⟨fun quiet => ?_, fun loud => ?_⟩⟩
    · have kept : { r with connected := false } = r' := by dsimp only [r']; rw [← finishing]
      rw [Fc4.abortEnded_eq, paired, Option.map_some, kept]
      exact Eq.trans (Fc4.unitFreed_finishing (by rfl) (by exact touch) (by rfl) (by rfl) (by exact landed) (by exact down)
        (by exact unasked) (by rfl)) rfl
    · exact Fc4.abortEnded_measuring paired measuring outcome unasked
        (Fc4.toFinishing_quiet (r := { r with connected := false }) (by rfl) quiet o) rfl rfl rfl touch landed down unasked off
        unclaimed
    · exact Fc4.abortEnded_measuring paired measuring outcome unasked
        (Fc4.toFinishing_loud (r := { r with connected := false }) (by rfl) loud o) rfl rfl rfl touch landed down unasked off
        unclaimed
  · intro q u
    have becomes := q.abortEnded_eq
    refine ⟨?_, becomes, fun solo empty asked down => ?_, fun t solo touch landed outcome => ?_⟩
    · show q.abortEnded.meas.Off
      rw [becomes]
      exact Fc4.unitFreed_off q.meas.abortDone_isOff
    · dsimp only [u]
      rw [becomes, solo, Option.map_none, Fc4.unitFreed_empty (by rfl) (by exact empty), if_pos (by exact asked)]
      exact Motion.lift_lifting (.inl down)
    · dsimp only [u]
      rw [becomes, solo, Option.map_none, Fc4.unitFreed_solo (by rfl) (by exact touch) landed outcome]
      refine ⟨?_, fun down => Fc4.goLift_lifting ?_⟩
      · have kept : ∀ v : Fc4, v.work.touch = some t → v.goLift.work.touch = some { t with stage := .lift } := by
          intro v h
          rw [Fc4.goLift, Fc4.mapTouch_of_some h]
          rfl
        refine kept _ ?_
        split <;> exact touch
      · split
        · exact .inr (Motion.lift_lifting (.inl down))
        · exact .inl down

end Sys2Proof.Machine
end

section
/-! PROOF. Contention and the offer of an idle instant (chapter 01). O10, O11. -/

namespace Sys2Proof.Machine

/-! ### Contention -/

/-- The number that a list of bits writes, most significant first. -/
def bitsValue : List Bool → Nat
  | [] => 0
  | b :: bs => b.toNat * 2 ^ bs.length + bitsValue bs

theorem bitsValue_lt (bs : List Bool) : bitsValue bs < 2 ^ bs.length := by
  induction bs with
  | nil => exact Nat.one_pos
  | cons b bs ih =>
    rw [bitsValue, List.length_cons, Nat.pow_succ]
    cases b <;> simp only [Bool.toNat_true, Bool.toNat_false] <;> omega

theorem bitsValue_byteBits (b : Byte) : bitsValue (byteBits b) = b.toNat := by
  revert b; decide +kernel

/-- Bit by bit, a station that drives dominant falls to its rivals' recessive bits only where it is recessive itself, so
it wins exactly where no rival's number is lower. -/
theorem contend_iff (bs : List Bool) : ∀ rivals : List (List Bool), (∀ r ∈ rivals, r.length = bs.length) →
    (contend bs rivals = true ↔ ∀ r ∈ rivals, bitsValue bs ≤ bitsValue r) := by
  induction bs with
  | nil => intro rivals _; simp [contend, bitsValue]
  | cons b bs ih =>
    intro rivals lengths
    have parts : ∀ r ∈ rivals, ∃ c cs, r = c :: cs ∧ cs.length = bs.length := by
      intro r mem
      obtain ⟨c, cs, rfl⟩ := List.exists_cons_of_length_eq_add_one (lengths r mem)
      exact ⟨c, cs, rfl, Nat.succ.inj (lengths _ mem)⟩
    have rest : ∀ line : Bool, contend bs ((rivals.filter (fun o => decide (o.headD true = line))).map List.tail) = true ↔
        ∀ cs, line :: cs ∈ rivals → bitsValue bs ≤ bitsValue cs := by
      intro line
      rw [ih]
      · constructor
        · intro h cs mem
          exact h cs (List.mem_map.2 ⟨line :: cs, List.mem_filter.2 ⟨mem, decide_eq_true rfl⟩, rfl⟩)
        · intro h r mem
          obtain ⟨o, kept, rfl⟩ := List.mem_map.1 mem
          obtain ⟨among, head⟩ := List.mem_filter.1 kept
          obtain ⟨c, cs, rfl, -⟩ := parts o among
          obtain rfl : c = line := of_decide_eq_true head
          exact h cs among
      · intro r mem
        obtain ⟨o, kept, rfl⟩ := List.mem_map.1 mem
        obtain ⟨c, cs, rfl, length⟩ := parts o (List.mem_filter.1 kept).1
        exact length
    have bound := bitsValue_lt bs
    cases b with
    | false =>
      have wins : contend (false :: bs) rivals = true ↔
          ∀ cs, false :: cs ∈ rivals → bitsValue bs ≤ bitsValue cs := rest false
      rw [wins]
      constructor
      · intro h r mem
        obtain ⟨c, cs, rfl, length⟩ := parts r mem
        cases c with
        | false => simpa only [bitsValue, length, Bool.toNat_false, Nat.zero_mul, Nat.zero_add] using h cs mem
        | true => simp only [bitsValue, length, Bool.toNat_false, Bool.toNat_true]; omega
      · intro h cs mem
        simpa only [bitsValue, Bool.toNat_false, Nat.zero_mul, Nat.zero_add] using h _ mem
    | true =>
      by_cases recessive : rivals.all (fun o => o.headD true) = true
      · have wins : contend (true :: bs) rivals = true ↔
            ∀ cs, true :: cs ∈ rivals → bitsValue bs ≤ bitsValue cs := by
          simp only [contend, recessive, Bool.and_self, Bool.not_true, Bool.and_false, Bool.false_eq_true, if_false]
          exact rest true
        rw [wins]
        constructor
        · intro h r mem
          obtain ⟨c, cs, rfl, length⟩ := parts r mem
          obtain rfl : c = true := List.all_eq_true.1 recessive _ mem
          simpa only [bitsValue, length, Nat.add_le_add_iff_left] using h cs mem
        · intro h cs mem
          have length : cs.length = bs.length := Nat.succ.inj (lengths _ mem)
          simpa only [bitsValue, length, Nat.add_le_add_iff_left] using h _ mem
      · have loses : contend (true :: bs) rivals = false := by
          simp only [contend, recessive, Bool.and_false, Bool.not_false, Bool.and_self, if_true]
        rw [loses]
        refine iff_of_false Bool.false_ne_true fun h => recessive (List.all_eq_true.2 fun r mem => ?_)
        obtain ⟨c, cs, rfl, length⟩ := parts r mem
        cases c with
        | true => rfl
        | false =>
          have low := bitsValue_lt cs
          have le := h _ mem
          simp only [bitsValue, length, Bool.toNat_false, Bool.toNat_true] at le low
          omega

/-- Settles O10. -/
theorem lowestContentionValueWins : Obligations.LowestContentionValueWins := by
  intro own rivals
  have lengths : ∀ r ∈ rivals.map byteBits, r.length = (byteBits own).length := by
    intro r mem
    obtain ⟨b, -, rfl⟩ := List.mem_map.1 mem
    rfl
  rw [winsLine, contend_iff _ _ lengths, List.forall_mem_map]
  simp only [bitsValue_byteBits]

/-! ### The slot that is offered -/

theorem kindOfCode_kindCode (k : FrameKind) : kindOfCode (kindCode k) = some k := by cases k <;> rfl

theorem kindCode_inj {j k : FrameKind} (h : kindCode j = kindCode k) : j = k :=
  Option.some.inj ((kindOfCode_kindCode j).symm.trans ((congrArg kindOfCode h).trans (kindOfCode_kindCode k)))

/-- The slot of kind `k` is filled. -/
def Link.filled (l : Link) : FrameKind → Bool
  | .release => l.release.isSome
  | .ask => l.ask.isSome
  | .claim => l.claim.isSome
  | .touch => l.touch.isSome
  | .pair => l.pair.isSome
  | .beacon => l.beacon
  | .status => l.status
  | .result => l.result
  | _ => false

/-- The kinds that the station may offer, in the order of their codes (R7). -/
def Fc4.offers (q : Fc4) : List FrameKind :=
  if q.ctl.mode = .cfgFault then [.beacon, .status] else [.release, .ask, .claim, .touch, .pair, .beacon, .status, .result]

theorem Fc4.offers_sorted (q : Fc4) : q.offers.Pairwise (fun j k => kindCode j ≤ kindCode k) := by
  unfold Fc4.offers; split <;> decide

theorem Fc4.mayOffer_kind (q : Fc4) (k : FrameKind) : (k ∈ q.offers ∧ q.link.filled k = true) ↔
    (q.link.filled k = true ∧ (q.ctl.mode = .cfgFault → k = .beacon ∨ k = .status)) := by
  unfold Fc4.offers
  by_cases fault : q.ctl.mode = .cfgFault
  · simp only [fault, if_true, List.mem_cons, List.not_mem_nil, or_false, forall_const]
    exact and_comm
  · simp only [fault, if_false, false_implies, and_true, and_iff_right_iff_imp]
    cases k <;> simp [Link.filled]

theorem find?_cons_if {α : Type} (test : α → Bool) (a : α) (rest : List α) :
    (a :: rest).find? test = if test a then some a else rest.find? test := by
  rw [List.find?_cons]; cases test a <;> rfl

theorem Fc4.offeredSlot_eq (q : Fc4) : q.offeredSlot = q.offers.find? q.link.filled := by
  unfold Fc4.offeredSlot Fc4.offers
  split
  · simp only [find?_cons_if, List.find?_nil, Link.filled]
    rfl
  · simp only [Link.lowestSlot, find?_cons_if, List.find?_nil, Link.filled]
    rfl

theorem find?_least {order : List FrameKind} (sorted : order.Pairwise (fun j k => kindCode j ≤ kindCode k))
    {test : FrameKind → Bool} {k : FrameKind} (found : order.find? test = some k) :
    ∀ j ∈ order, test j = true → kindCode k ≤ kindCode j := by
  induction order with
  | nil => intro j mem; cases mem
  | cons i order ih =>
    obtain ⟨head, tail⟩ := List.pairwise_cons.1 sorted
    intro j mem passes
    by_cases first : test i = true
    · rw [List.find?_cons_of_pos first] at found
      cases found
      rcases List.mem_cons.1 mem with rfl | later
      · exact le_rfl
      · exact head j later
    · rw [List.find?_cons_of_neg first] at found
      rcases List.mem_cons.1 mem with rfl | later
      · exact absurd passes first
      · exact ih tail found j later passes

/-- The filled slot of the lowest kind code is offered, in CFG_FAULT only BEACON or STATUS (R7). -/
theorem Fc4.offeredSlot_iff (q : Fc4) (k : FrameKind) : q.offeredSlot = some k ↔
    (k ∈ q.offers ∧ q.link.filled k = true) ∧
    ∀ j, j ∈ q.offers ∧ q.link.filled j = true → kindCode k ≤ kindCode j := by
  rw [Fc4.offeredSlot_eq]
  constructor
  · intro found
    exact ⟨⟨List.mem_of_find?_eq_some found, List.find?_some found⟩,
      fun j offered => find?_least q.offers_sorted found j offered.1 offered.2⟩
  · rintro ⟨offered, least⟩
    have found : (q.offers.find? q.link.filled).isSome = true := List.find?_isSome.2 ⟨k, offered⟩
    obtain ⟨j, found⟩ := Option.isSome_iff_exists.1 found
    have below := least j ⟨List.mem_of_find?_eq_some found, List.find?_some found⟩
    have above := find?_least q.offers_sorted found k offered.1 offered.2
    rw [found, kindCode_inj (Nat.le_antisymm above below)]

theorem frame_of_slot {α : Type} {slot : Option α} (filled : slot.isSome = true) {k : FrameKind}
    (frame : α → OnAir × Station × List Byte) (kind : ∀ f, (frame f).1.kind = k) :
    ∃ c target payload, slot.map frame = some (c, target, payload) ∧ c.kind = k := by
  obtain ⟨f, rfl⟩ := Option.isSome_iff_exists.1 filled
  exact ⟨_, _, _, rfl, kind f⟩

/-- A filled slot has its frame. -/
theorem Fc4.frameOf_filled {q : Fc4} {k : FrameKind} (filled : q.link.filled k = true) :
    ∃ c target payload, q.frameOf k = some (c, target, payload) ∧ c.kind = k := by
  cases k with
  | release => exact frame_of_slot filled _ fun _ => rfl
  | ask => exact frame_of_slot filled _ fun _ => rfl
  | claim => exact frame_of_slot filled _ fun _ => rfl
  | touch => exact frame_of_slot filled _ fun _ => rfl
  | pair => exact frame_of_slot filled _ fun _ => rfl
  | beacon => exact ⟨_, _, _, rfl, rfl⟩
  | status => exact ⟨_, _, _, rfl, rfl⟩
  | result => exact ⟨_, _, _, rfl, rfl⟩
  | halt => cases filled
  | command => cases filled
  | load => cases filled

/-! ### The examination at the moment of offering (R10) -/

theorem Fc4.claimSlot_of_offered {p : Fc4} (offered : p.offeredSlot = some .claim) : ∃ f, p.link.claim = some f :=
  Option.isSome_iff_exists.1 ((p.offeredSlot_iff .claim).1 offered).1.2

theorem Fc4.examineOffer_eq {p : Fc4} (offered : p.offeredSlot = some .claim) : p.examineOffer = p.offerExamination :=
  if_pos offered

theorem Fc4.offerExamination_none {p : Fc4} {f : ClaimFill} (slot : p.link.claim = some f) (gone : p.resv.claim = none) :
    p.offerExamination = { p with link := p.link.withdrawClaim } := by
  simp only [Fc4.offerExamination, slot, gone]

/-- The box with which a claim is offered: a LINE claim takes the box now held. -/
def Fc4.offeredBox (p : Fc4) (c : Claim) (f : ClaimFill) : Box := if c.kind = .line then p.heldOrStanding else f.box

theorem Fc4.offerExamination_passes {p : Fc4} {c : Claim} {f : ClaimFill} (slot : p.link.claim = some f)
    (pending : p.resv.claim = some c) (passes : p.claimPasses (p.offeredBox c f) f.lines = true) :
    p.offerExamination = { p with
      link := { p.link with claim := some ⟨p.offeredBox c f, f.lines, f.tag⟩ }
      resv := { p.resv with claim := some { c with box := p.offeredBox c f } } } := by
  simp only [Fc4.offerExamination, slot, pending]
  exact if_pos passes

theorem Fc4.offerExamination_fails {p : Fc4} {c : Claim} {f : ClaimFill} (slot : p.link.claim = some f)
    (pending : p.resv.claim = some c) (fails : p.claimPasses (p.offeredBox c f) f.lines = false) : p.offerExamination =
    ({ p with link := p.link.withdrawClaim } : Fc4).claimFails { c with box := p.offeredBox c f } := by
  simp only [Fc4.offerExamination, slot, pending]
  exact if_neg (Bool.eq_false_iff.1 fails)

/-! ### The frame that begins -/

theorem byteOf_contentionValue (k : FrameKind) (n : Station) :
    (byteOf (contentionValue k n)).toNat = kindCode k * 16 + n.val := by
  have kind : kindCode k ≤ 10 := by cases k <;> decide
  rw [byteOf_toNat, contentionValue]
  omega

theorem Fc4.beginFrame_wins {q : Fc4} {k : FrameKind} {rivals : List Byte} {c : OnAir} {target : Station}
    {payload : List Byte} (frame : q.frameOf k = some (c, target, payload))
    (wins : ∀ r ∈ rivals, kindCode k * 16 + q.ctl.number.val ≤ r.toNat) :
    q.beginFrame k rivals = { q with link := { q.link with
      onLine := some { content := c, seq := q.link.seq, since := q.now, withdrawn := false, refilled := false
                       bytes := frameBytes (kindCode k) q.ctl.number q.link.seq target payload } } } := by
  have won : winsLine (byteOf (contentionValue k q.own)) rivals = true := by
    rw [lowestContentionValueWins, byteOf_contentionValue]; exact wins
  simp only [Fc4.beginFrame, frame, won, if_true]
  rfl

theorem Fc4.beginFrame_loses {q : Fc4} {k : FrameKind} {rivals : List Byte} {c : OnAir} {target : Station}
    {payload : List Byte} (frame : q.frameOf k = some (c, target, payload))
    (loses : ∃ r ∈ rivals, r.toNat < kindCode k * 16 + q.ctl.number.val) :
    q.beginFrame k rivals = q.lineUsed := by
  have lost : ¬ winsLine (byteOf (contentionValue k q.own)) rivals = true := by
    rw [lowestContentionValueWins, byteOf_contentionValue]
    obtain ⟨r, mem, lower⟩ := loses
    exact fun wins => Nat.not_le.2 lower (wins r mem)
  simp only [Fc4.beginFrame, frame, if_neg lost]

theorem Fc4.mayOffer_eq_false_iff (p : Fc4) : p.mayOffer = false ↔ p.receiving = false ∨ p.now < p.link.idleFrom ∨
    p.link.onLine.isSome = true ∨ p.ctl.mode = .starting ∨ p.link.linkDown.isSome = true ∨ p.link.cutOff = true := by
  simp only [Fc4.mayOffer, Bool.and_eq_false_iff, Bool.not_eq_false', decide_eq_false_iff_not, decide_eq_true_eq, or_assoc,
    Nat.not_le, Option.isNone_eq_false_iff]

/-! ### The own beacon -/

theorem Fc4.frontTag_cases {q : Fc4} :
    ((q.ctl.mode = .running ∨ q.ctl.mode = .pausing) ∧ q.front.bind Entry.terms ≠ none →
    ∀ e t, q.front = some e → e.terms = some t → q.frontTag = t.tag) ∧
    (¬ ((q.ctl.mode = .running ∨ q.ctl.mode = .pausing) ∧ q.front.bind Entry.terms ≠ none) → q.frontTag = 0) := by
  constructor
  · intro paired e t front terms
    simp only [Fc4.frontTag, if_pos paired.1, front, terms, Option.map_some, Option.getD_some]
  · intro unpaired
    unfold Fc4.frontTag
    split
    · rename_i runs
      have solo : q.front.bind Entry.terms = none := not_not.1 fun some_ => unpaired ⟨runs, some_⟩
      cases front : q.front with
      | none => rfl
      | some e =>
        rw [front] at solo
        have none_ : e.terms = none := solo
        simp only [none_, Option.map_none, Option.getD_none]
    · rfl

/-- Settles O11. -/
theorem offerBeginsTheLowestFrame : Obligations.OfferBeginsTheLowestFrame := by
  refine ⟨?_, ?_, ?_⟩
  · intro s dt rivals p silent q
    have offered : ¬ silent → ∀ u, p.offer rivals = u → exec (.offer dt rivals) s = .next { s with part := u } := by
      intro open_ u h
      have may : p.mayOffer = true := by rw [← Bool.not_eq_false, Fc4.mayOffer_eq_false_iff]; exact open_
      show execOffer dt rivals s = _
      unfold execOffer
      exact rowEffect_of ((onlyIf_of_true _ _ may).trans h)
    refine ⟨fun quiet => ?_, fun open_ none_ => offered open_ _ ?_,
      fun open_ k slot => ⟨fun loses => offered open_ _ ?_, fun wins => ?_⟩⟩
    · have may : p.mayOffer = false := p.mayOffer_eq_false_iff.2 quiet
      show execOffer dt rivals s = _
      unfold execOffer
      exact rowEffect_of (onlyIf_of_false _ _ may)
    · simp only [Fc4.offer]
      rw [show p.examineOffer.offeredSlot = none from none_]
    · obtain ⟨c, target, payload, frame, -⟩ := Fc4.frameOf_filled ((q.offeredSlot_iff k).1 slot).1.2
      simp only [Fc4.offer]
      rw [show p.examineOffer.offeredSlot = some k from slot]
      exact Fc4.beginFrame_loses frame loses
    · obtain ⟨c, target, payload, frame, kind⟩ := Fc4.frameOf_filled ((q.offeredSlot_iff k).1 slot).1.2
      refine ⟨c, target, payload, frame, kind, offered open_ _ ?_⟩
      simp only [Fc4.offer]
      rw [show p.examineOffer.offeredSlot = some k from slot]
      exact Fc4.beginFrame_wins frame wins
  · intro p q
    refine ⟨fun other => if_neg other, fun offered gone => ?_, ?_⟩
    · obtain ⟨f, slot⟩ := Fc4.claimSlot_of_offered offered
      exact (Fc4.examineOffer_eq offered).trans (Fc4.offerExamination_none slot gone)
    intro c f offered pending slot box
    refine ⟨fun passes => ?_, fun fails => ?_⟩
    · exact (Fc4.examineOffer_eq offered).trans (Fc4.offerExamination_passes slot pending passes)
    · have failed : q = ({ p with link := p.link.withdrawClaim } : Fc4).claimFails { c with box := p.offeredBox c f } :=
        (Fc4.examineOffer_eq offered).trans (Fc4.offerExamination_fails slot pending fails)
      obtain ⟨claim, emptied, since⟩ :=
        ({ p with link := p.link.withdrawClaim } : Fc4).claimFails_leaves { c with box := p.offeredBox c f }
      rw [failed]
      obtain ⟨o, -, withdrawn⟩ := Link.noteWithdrawal_restamps { p.link with claim := none } .claim
      refine ⟨emptied.trans ?_, claim.trans pending, since⟩
      show p.link.withdrawClaim.claim = none
      rw [Link.withdrawClaim, withdrawn]
  · intro q l filled mayGo
    have filled_iff : ∀ k, filled k ↔ l.filled k = true := by
      intro k; cases k <;> simp only [filled, Link.filled, Bool.false_eq_true]
    have mayGo_iff : ∀ k, mayGo k ↔ k ∈ q.offers ∧ q.link.filled k = true := by
      intro k
      rw [Fc4.mayOffer_kind]
      exact and_congr_left fun _ => filled_iff k
    refine ⟨fun k => ?_, fun f slot => ?_, fun f slot => ?_,
      fun f slot => ?_, fun f slot => ?_, fun f slot => ?_, rfl, ?_, rfl,
      fun fault => if_pos fault, fun working_ => ?_⟩
    · simp only [mayGo_iff]; exact q.offeredSlot_iff k
    · rw [Fc4.frameOf, show q.link.release = some f from slot]; rfl
    · rw [Fc4.frameOf, show q.link.ask = some f from slot]; rfl
    · rw [Fc4.frameOf, show q.link.claim = some f from slot]; rfl
    · rw [Fc4.frameOf, show q.link.touch = some f from slot]; rfl
    · rw [Fc4.frameOf, show q.link.pair = some f from slot]; rfl
    · simp only [Fc4.frameOf, List.length_map, List.length_take]
    · intro paired b
      have body : q.beaconBody = _ := if_neg working_
      refine ⟨?_, ?_, ?_, ?_⟩
      · dsimp only [b]; rw [body]; rfl
      · dsimp only [b]; rw [body]; exact q.atHavenFlag_iff
      · dsimp only [b]; rw [body]; exact Fc4.frontTag_cases.1
      · dsimp only [b]; rw [body]; exact Fc4.frontTag_cases.2

end Sys2Proof.Machine
end

section
/-! PROOF. The line levels of a frame, and its envelope, as a receiver reads them (chapter 01). -/

namespace Sys2Proof.Machine

/-! ### Bytes on the line -/

theorem byteOfBits_byteBits (b : Byte) : byteOfBits (b.getLsbD 7) (b.getLsbD 6) (b.getLsbD 5) (b.getLsbD 4)
    (b.getLsbD 3) (b.getLsbD 2) (b.getLsbD 1) (b.getLsbD 0) = b := by
  revert b; decide +kernel

theorem readByte_sendByte (b : Byte) (rest : List Bool) : readByte (sendByte b ++ rest) = some (b, rest) :=
  congrArg (fun b => some (b, rest)) (byteOfBits_byteBits b)

theorem sendBits_append (a b : List Byte) : sendBits (a ++ b) = sendBits a ++ sendBits b := by
  induction a with
  | nil => rfl
  | cons x a ih => simp only [List.cons_append, sendBits, ih, List.append_assoc]

theorem sendBits_length (bytes : List Byte) : (sendBits bytes).length = 9 * bytes.length := by
  induction bytes with
  | nil => rfl
  | cons b bytes ih =>
    simp only [sendBits, sendByte, byteBits, List.length_append, List.length_cons, List.length_nil, ih]
    omega

theorem readBytes_succ (n : Nat) (b : Byte) (bits : List Bool) :
    readBytes (n + 1) (sendByte b ++ bits) = (readBytes n bits).map (fun r => (b :: r.1, r.2)) := by
  simp only [readBytes, readByte_sendByte]
  cases readBytes n bits <;> rfl

/-- What was sent byte by byte is read so. -/
theorem readBytes_sendBits (bytes : List Byte) (rest : List Bool) :
    readBytes bytes.length (sendBits bytes ++ rest) = some (bytes, rest) := by
  induction bytes with
  | nil => rfl
  | cons b bytes ih => rw [List.length_cons, sendBits, List.append_assoc, readBytes_succ, ih]; rfl

theorem readByte_short {bits : List Bool} (short : bits.length < 9) : readByte bits = none := by
  unfold readByte
  split
  · simp only [List.length_cons] at short; omega
  · rfl

theorem readByte_length {bits : List Bool} {b : Byte} {rest : List Bool} (h : readByte bits = some (b, rest)) :
    bits.length = 9 + rest.length := by
  unfold readByte at h
  split at h
  · cases h; simp only [List.length_cons]; omega
  · cases h

/-- Levels that end early give no bytes. -/
theorem readBytes_short : ∀ {n : Nat} {bits : List Bool}, bits.length < 9 * n → readBytes n bits = none := by
  intro n
  induction n with
  | zero => intro bits short; omega
  | succ n ih =>
    intro bits short
    rw [readBytes]
    cases first : readByte bits with
    | none => rfl
    | some r =>
      have length := readByte_length first
      simp only [ih (show r.2.length < 9 * n by omega)]

/-- A recessive level where a start bit should stand gives no bytes. -/
theorem readBytes_recessive (rest : List Bool) : ∀ {bytes : List Byte} {n : Nat}, bytes.length < n →
    readBytes n (sendBits bytes ++ true :: rest) = none := by
  intro bytes
  induction bytes with
  | nil =>
    intro n more
    obtain ⟨n, rfl⟩ := Nat.exists_eq_add_of_lt more
    rfl
  | cons b bytes ih =>
    intro n more
    obtain ⟨n, rfl⟩ := Nat.exists_eq_succ_of_ne_zero (Nat.ne_of_gt (Nat.zero_lt_of_lt more))
    rw [sendBits, List.append_assoc, readBytes_succ, ih (Nat.lt_of_succ_lt_succ more)]
    rfl

/-! ### The judgement of a frame (R5) -/

theorem hearBits_headless {bits : List Bool} (h : readBytes 3 bits = none) : hearBits bits = .failed := by
  simp only [hearBits, h]

theorem readBytes_head (b0 b1 len : Byte) (rest : List Bool) :
    readBytes 3 (sendBits [b0, b1, len] ++ rest) = some ([b0, b1, len], rest) := readBytes_sendBits [b0, b1, len] rest

theorem lengthByte (b0 b1 len : Byte) : fieldAt [b0, b1, len] 2 1 = len.toNat := by simp [fieldAt, leValue]

theorem hearBits_long {b0 b1 len : Byte} (long : 60 < len.toNat) (rest : List Bool) :
    hearBits (sendBits [b0, b1, len] ++ rest) = .failed := by
  simp only [hearBits, readBytes_head, lengthByte, long, if_true]

theorem hearBits_cut {b0 b1 len : Byte} {rest : List Bool} (cut : readBytes (len.toNat + 2) rest = none) :
    hearBits (sendBits [b0, b1, len] ++ rest) = .failed := by
  simp only [hearBits, readBytes_head, lengthByte, cut]
  split <;> rfl

theorem hearBits_whole {b0 b1 len : Byte} {rest excess : List Bool} {tail : List Byte} (short : len.toNat ≤ 60)
    (whole : readBytes (len.toNat + 2) rest = some (tail, excess)) : hearBits (sendBits [b0, b1, len] ++ rest) =
    if tail.drop len.toNat = crcBytes ([b0, b1, len] ++ tail.take len.toNat)
    then .passed ([b0, b1, len] ++ tail.take len.toNat) else .failed := by
  simp only [hearBits, readBytes_head, lengthByte, whole, if_neg (Nat.not_lt.2 short)]

theorem byteOf_length {payload : List Byte} (short : payload.length ≤ 60) :
    (byteOf payload.length).toNat = payload.length := by
  rw [byteOf_toNat]; omega

/-- A frame with its length byte right passes exactly where the two bytes behind it are its check. -/
theorem hearBits_frame {b0 b1 c0 c1 : Byte} {payload : List Byte} (short : payload.length ≤ 60) :
    hearBits (sendBits (b0 :: b1 :: byteOf payload.length :: payload ++ [c0, c1])) =
    if [c0, c1] = crcBytes (b0 :: b1 :: byteOf payload.length :: payload)
    then .passed (b0 :: b1 :: byteOf payload.length :: payload) else .failed := by
  have length := byteOf_length short
  have parts : sendBits (b0 :: b1 :: byteOf payload.length :: payload ++ [c0, c1]) =
      sendBits [b0, b1, byteOf payload.length] ++ (sendBits (payload ++ [c0, c1]) ++ []) := by
    rw [List.append_nil, ← sendBits_append]; rfl
  have whole : readBytes ((byteOf payload.length).toNat + 2) (sendBits (payload ++ [c0, c1]) ++ []) =
      some (payload ++ [c0, c1], []) := by
    rw [length, ← readBytes_sendBits (payload ++ [c0, c1]) [], List.length_append]; rfl
  rw [parts, hearBits_whole (by rwa [length]) whole, length, List.drop_left' rfl, List.take_left' rfl]
  rfl

/-- A frame that a station sends with its check is heard as its bytes. -/
theorem hearBits_frameBytes (code : Nat) (sender : Station) (seq : Seq) (target : Station) {payload : List Byte}
    (short : payload.length ≤ 60) :
    hearBits (sendBits (frameBytes code sender seq target payload)) =
    .passed (frameHead code sender seq target payload) := by
  have check : ∀ bytes, crcBytes bytes = [byteOf (crc bytes).toNat, byteOf ((crc bytes).toNat / 256)] := fun _ => rfl
  rw [frameBytes, check]
  exact (hearBits_frame short).trans (if_pos (check _).symm)

/-- A frame whose levels end early fails. -/
theorem hearBits_take {b0 b1 c0 c1 : Byte} {payload : List Byte} (short : payload.length ≤ 60) {n : Nat}
    (early : n < (sendBits (b0 :: b1 :: byteOf payload.length :: payload ++ [c0, c1])).length) :
    hearBits ((sendBits (b0 :: b1 :: byteOf payload.length :: payload ++ [c0, c1])).take n) = .failed := by
  have bound : n < 9 * (payload.length + 5) := by
    rw [sendBits_length] at early; simpa only [List.length_append, List.length_cons, List.length_nil] using early
  by_cases headless : n < 27
  · refine hearBits_headless (readBytes_short ?_)
    rw [List.length_take]; omega
  · have parts : (sendBits (b0 :: b1 :: byteOf payload.length :: payload ++ [c0, c1])).take n =
        sendBits [b0, b1, byteOf payload.length] ++ (sendBits (payload ++ [c0, c1])).take (n - 27) := by
      have all : sendBits (b0 :: b1 :: byteOf payload.length :: payload ++ [c0, c1]) =
          sendBits [b0, b1, byteOf payload.length] ++ sendBits (payload ++ [c0, c1]) := by
        rw [← sendBits_append]; rfl
      have head : (sendBits [b0, b1, byteOf payload.length]).length = 27 := by rw [sendBits_length]; rfl
      rw [all, List.take_append, head, List.take_of_length_le (by omega)]
    rw [parts]
    refine hearBits_cut (readBytes_short ?_)
    rw [List.length_take, byteOf_length short]; omega

/-- A frame with a recessive start bit fails. -/
theorem hearBits_recessive {b0 b1 c0 c1 : Byte} {payload : List Byte} (short : payload.length ≤ 60)
    {k : Nat} (rest : List Bool)
    (inside : k < (b0 :: b1 :: byteOf payload.length :: payload ++ [c0, c1]).length) :
    hearBits (sendBits ((b0 :: b1 :: byteOf payload.length :: payload ++ [c0, c1]).take k) ++ true :: rest) = .failed := by
  by_cases headless : k < 3
  · refine hearBits_headless (readBytes_recessive rest ?_)
    rw [List.length_take]; omega
  · obtain ⟨j, rfl⟩ := Nat.exists_eq_add_of_le (Nat.not_lt.1 headless)
    have parts : sendBits ((b0 :: b1 :: byteOf payload.length :: payload ++ [c0, c1]).take (3 + j)) ++ true :: rest =
        sendBits [b0, b1, byteOf payload.length] ++ (sendBits ((payload ++ [c0, c1]).take j) ++ true :: rest) := by
      rw [← List.append_assoc, ← sendBits_append, Nat.add_comm]; rfl
    rw [parts]
    refine hearBits_cut (readBytes_recessive rest ?_)
    simp only [List.length_append, List.length_cons, List.length_nil] at inside
    rw [List.length_take, byteOf_length short]; omega

/-! ### The fields of a payload -/

theorem fieldAt_cons (b : Byte) (p : List Byte) (off len : Nat) : fieldAt (b :: p) (off + 1) len = fieldAt p off len := by
  rw [fieldAt, fieldAt, List.drop_succ_cons]

theorem fieldAt_byte (b : Byte) (p : List Byte) : fieldAt (b :: p) 0 1 = b.toNat := by simp [fieldAt, leValue]

theorem fieldAt_skip {a : List Byte} {n : Nat} (length : a.length = n) (p : List Byte) (off len : Nat) :
    fieldAt (a ++ p) (off + n) len = fieldAt p off len := by
  rw [fieldAt, Nat.add_comm, ← List.drop_drop, List.drop_left' length]; rfl

theorem fieldAt_leBytes {n v : Nat} (fits : v < 256 ^ n) (p : List Byte) : fieldAt (leBytes n v ++ p) 0 n = v := by
  rw [fieldAt, List.drop_zero, List.take_left' (leBytes_length n v), leValue_leBytes fits]

/-! ### The envelope (R2, R3) -/

/-- A heard frame by the fields of its envelope. -/
theorem frameRow_passed (own : Station) (e : Surroundings) {code target : Nat} (sender : Station) (seq : Seq)
    (payload : List Byte) (kind : code < 16) (aim : target < 16) :
    frameRow own e (.passed (byteOf (code * 16 + sender.val) :: byteOf (seq.val * 16 + target) ::
      byteOf payload.length :: payload)) =
    if sender = own then .dupStationFrame e.dt
    else (kindOfCode code).elim (.unassignedFrame e.dt ⟨sender, seq⟩) fun k =>
      if senderValid k sender then payloadRow e k ⟨sender, seq⟩ (Fin.ofNat 16 target) payload
      else .invalidSenderFrame e.dt ⟨sender, seq⟩ := by
  have b0 : (byteOf (code * 16 + sender.val)).toNat = code * 16 + sender.val := by rw [byteOf_toNat]; omega
  have b1 : (byteOf (seq.val * 16 + target)).toNat = seq.val * 16 + target := by rw [byteOf_toNat]; omega
  have sender' : Fin.ofNat 16 ((code * 16 + sender.val) % 16) = sender := by
    apply Fin.ext; show (code * 16 + sender.val) % 16 % 16 = sender.val; omega
  have seq' : Fin.ofNat 16 ((seq.val * 16 + target) / 16) = seq := by
    apply Fin.ext; show (seq.val * 16 + target) / 16 % 16 = seq.val; omega
  have code' : (code * 16 + sender.val) / 16 = code := by omega
  have target' : (seq.val * 16 + target) % 16 = target := by omega
  simp only [frameRow, fieldAt_cons, fieldAt_byte, b0, b1, sender', seq', code', target',
    List.drop_succ_cons, List.drop_zero]
  cases kindOfCode code <;> rfl

/-- The row of a frame that another station sends, by its payload. -/
theorem frameRow_sent {own sender : Station} (e : Surroundings) {code : Nat} {kind : FrameKind} (seq : Seq)
    (target : Station) {payload : List Byte} (assigned : kindOfCode code = some kind) (small : code < 16) (short : payload.length ≤ 60)
    (other : sender ≠ own) (valid : senderValid kind sender = true) :
    frameRow own e (hearBits (sendBits (frameBytes code sender seq target payload))) =
    payloadRow e kind ⟨sender, seq⟩ target payload := by
  have aim : Fin.ofNat 16 target.val = target := Fin.ext (Nat.mod_eq_of_lt target.isLt)
  rw [hearBits_frameBytes code sender seq target short]
  refine (frameRow_passed own e sender seq payload small target.isLt).trans ?_
  rw [if_neg other, assigned, Option.elim_some, if_pos valid, aim]

end Sys2Proof.Machine
end

section
/-! PROOF. The payloads of chapter 11 as they are sent and as they are read. O9. -/

namespace Sys2Proof.Machine

/-! ### The codes -/

theorem roleOfCode_roleCode (r : Option Role) : roleOfCode (roleCode r) = some r := by
  rcases r with _ | _ | _ <;> rfl

theorem modeOfCode_modeCode {m : Mode} (known : m ≠ .starting) : modeOfCode (modeCode m) = some m := by
  cases m <;> first | rfl | exact absurd rfl known

theorem reasonOfCode_reasonCode (r : StopReason) : reasonOfCode (reasonCode r) = some r := by cases r <;> rfl

theorem lineOfCode_lineCode (l : Option Line) : lineOfCode (lineCode l) = some l := by
  rcases l with _ | _ | _ | _ | _ <;> rfl

theorem lineCode_le (l : Option Line) : lineCode l ≤ 4 := by rcases l with _ | _ | _ | _ | _ <;> decide

theorem sideCode_eq (side : Side) : ∃ b : Bool, sideCode side = b.toNat ∧ sideOfBit b = side := by
  cases side
  · exact ⟨false, rfl, rfl⟩
  · exact ⟨true, rfl, rfl⟩

theorem flagBit_eq (b : Bool) (i : Nat) : flagBit b i = b.toNat * 2 ^ i := by cases b <;> simp [flagBit]

theorem bitAt_of {v i : Nat} {b : Bool} (h : v / 2 ^ i % 2 = b.toNat) : bitAt v i = b := by
  rw [bitAt, h]; cases b <;> rfl

theorem sideBit_of {v : Nat} {side : Side} (h : v % 2 = sideCode side) : sideOfBit (bitAt v 0) = side := by
  obtain ⟨bit, code, named⟩ := sideCode_eq side
  rw [bitAt_of (b := bit) (by rw [Nat.pow_zero, Nat.div_one, h, code]), named]

theorem sideCode_le (side : Side) : sideCode side ≤ 1 := by cases side <;> decide

/-! ### Lines -/

theorem linesByte_toNat (r : LineRoles) : (linesByte r).toNat = lineCode r.force + 16 * lineCode r.ret := by
  have force := lineCode_le r.force
  have ret := lineCode_le r.ret
  rw [linesByte, byteOf_toNat]
  omega

theorem linesOfValue_linesByte {r : LineRoles} (distinct : rolesDistinct r = true) :
    linesOfValue (linesByte r).toNat = some r := by
  have force := lineCode_le r.force
  have low : (lineCode r.force + 16 * lineCode r.ret) % 16 = lineCode r.force := by omega
  have high : (lineCode r.force + 16 * lineCode r.ret) / 16 = lineCode r.ret := by omega
  simp only [linesOfValue, linesByte_toNat, low, high, lineOfCode_lineCode]
  exact if_pos distinct

/-! ### Positions and boxes -/

theorem posBytes_length (p : Pos) : (posBytes p).length = 5 := leBytes_length _ _

theorem boxBytes_length (b : Box) : (boxBytes b).length = 10 := by
  rw [boxBytes, List.length_append, posBytes_length, posBytes_length]

theorem optBoxBytes_length (b : Option Box) : (optBoxBytes b).length = 10 := by
  cases b with
  | none => exact leBytes_length _ _
  | some b => exact boxBytes_length b

theorem posAt_posBytes {x y : Nat} (fitsX : x ≤ coordMax) (fitsY : y ≤ coordMax) (rest : List Byte) :
    posAt (posBytes ⟨x, y⟩ ++ rest) 0 = ⟨x, y⟩ := by
  rw [show coordMax = 1048575 from rfl] at fitsX fitsY
  have value : x % 1048576 + y % 1048576 * 1048576 < 256 ^ 5 := by omega
  rw [posAt, posBytes, fieldAt_leBytes value, posOfValue]
  congr 1 <;> omega

theorem posAt_skip {a : List Byte} {n : Nat} (length : a.length = n) (p : List Byte) (off : Nat) :
    posAt (a ++ p) (off + n) = posAt p off := congrArg posOfValue (fieldAt_skip length p off 5)

theorem boxAt_skip {a : List Byte} {n : Nat} (length : a.length = n) (p : List Byte) (off : Nat) :
    boxAt (a ++ p) (off + n) = boxAt p off := by
  rw [boxAt, boxAt, posAt_skip length, Nat.add_right_comm, posAt_skip length]

theorem boxAt_boxBytes {b : Box} (wf : b.wf = true) (rest : List Byte) : boxAt (boxBytes b ++ rest) 0 = b := by
  simp only [Box.wf, boxOrdered, Bool.and_eq_true, decide_eq_true_eq] at wf
  obtain ⟨⟨⟨orderX, orderY⟩, fitsX⟩, fitsY⟩ := wf
  have low := posAt_posBytes (orderX.trans fitsX) (orderY.trans fitsY) (posBytes ⟨b.xmax, b.ymax⟩ ++ rest)
  have high := (posAt_skip (posBytes_length ⟨b.xmin, b.ymin⟩) (posBytes ⟨b.xmax, b.ymax⟩ ++ rest) 0).trans
    (posAt_posBytes fitsX fitsY rest)
  rw [boxBytes, List.append_assoc, boxAt, low, high]

theorem boxOrdered_of_wf {b : Box} (wf : b.wf = true) : boxOrdered b = true := by
  simp only [Box.wf, Bool.and_eq_true] at wf
  exact wf.1.1

theorem optBoxAt_skip {a : List Byte} {n : Nat} (length : a.length = n) (p : List Byte) (present : Bool) (off : Nat) :
    optBoxAt (a ++ p) present (off + n) = optBoxAt p present off := by
  rw [optBoxAt, optBoxAt, boxAt_skip length]

theorem optBoxAt_optBoxBytes {b : Option Box} (wf : (b.map Box.wf).getD true = true) (rest : List Byte) :
    optBoxAt (optBoxBytes b ++ rest) b.isSome 0 = some b := by
  cases b with
  | none => rfl
  | some b =>
    rw [optBoxAt, Option.isSome_some, if_pos rfl, optBoxBytes, boxAt_boxBytes wf, if_pos (boxOrdered_of_wf wf)]

theorem fits_iff {n v : Nat} : fits n v = true ↔ v < 256 ^ n := by rw [fits, decide_eq_true_eq]

theorem fieldAt_leBytes_last {n v : Nat} (fits : v < 256 ^ n) : fieldAt (leBytes n v) 0 n = v := by
  have field := fieldAt_leBytes fits []
  rwa [List.append_nil] at field

theorem byteOf_fits {v : Nat} (small : v < 256) : (byteOf v).toNat = v := by rw [byteOf_toNat]; omega

/-! ### The payloads of the head frames -/

theorem posAt_cons (x : Byte) (p : List Byte) (off : Nat) : posAt (x :: p) (off + 1) = posAt p off := by
  rw [posAt, posAt, fieldAt_cons]

theorem boxAt_cons (x : Byte) (p : List Byte) (off : Nat) : boxAt (x :: p) (off + 1) = boxAt p off := by
  rw [boxAt, boxAt, posAt_cons, Nat.add_right_comm, posAt_cons]

theorem optBoxAt_cons (x : Byte) (p : List Byte) (present : Bool) (off : Nat) :
    optBoxAt (x :: p) present (off + 1) = optBoxAt p present off := by
  rw [optBoxAt, optBoxAt, boxAt_cons]

theorem fieldAt_box (b : Box) (p : List Byte) (off len : Nat) : fieldAt (boxBytes b ++ p) (off + 10) len = fieldAt p off len :=
  fieldAt_skip (boxBytes_length b) p off len

theorem fieldAt_pos (q : Pos) (p : List Byte) (off len : Nat) : fieldAt (posBytes q ++ p) (off + 5) len = fieldAt p off len :=
  fieldAt_skip (posBytes_length q) p off len

theorem fieldAt_two (v : Nat) (p : List Byte) (off len : Nat) : fieldAt (leBytes 2 v ++ p) (off + 2) len = fieldAt p off len :=
  fieldAt_skip (leBytes_length 2 v) p off len

theorem releaseOfPayload_sent {b : ReleaseBody} (wf : b.wf = true) : releaseOfPayload (releasePayload b) = some b := by
  simp only [ReleaseBody.wf, Bool.and_eq_true, fits_iff] at wf
  obtain ⟨⟨box, lines⟩, answer⟩ := wf
  have code := sideCode_le b.side
  have flag := b.atHaven.toNat_le
  have length : (releasePayload b).length = 13 := by simp [releasePayload, boxBytes_length]
  have parts : releasePayload b =
      byteOf (sideCode b.side + flagBit b.atHaven 1) :: (boxBytes b.box ++ [linesByte b.lines, byteOf b.answerTo]) := by
    simp [releasePayload]
  have first : (byteOf (sideCode b.side + flagBit b.atHaven 1)).toNat = sideCode b.side + flagBit b.atHaven 1 := by
    rw [flagBit_eq, byteOf_fits (by omega)]
  have side : sideOfBit (bitAt (sideCode b.side + flagBit b.atHaven 1) 0) = b.side :=
    sideBit_of (by rw [flagBit_eq]; omega)
  have atHaven : bitAt (sideCode b.side + flagBit b.atHaven 1) 1 = b.atHaven := bitAt_of (by rw [flagBit_eq]; omega)
  simp only [releaseOfPayload, if_pos length]
  simp only [parts, fieldAt_cons, fieldAt_box, fieldAt_byte, boxAt_cons, boxAt_boxBytes box, first, side, atHaven,
    linesOfValue_linesByte lines, byteOf_fits answer]
  exact if_pos (boxOrdered_of_wf box)

theorem claimOfPayload_sent {b : ClaimBody} (wf : b.wf = true) : claimOfPayload (claimPayload b) = some b := by
  simp only [ClaimBody.wf, Bool.and_eq_true, fits_iff] at wf
  obtain ⟨⟨box, lines⟩, tag⟩ := wf
  have code := sideCode_le b.side
  have length : (claimPayload b).length = 14 := by simp [claimPayload, boxBytes_length]
  have parts : claimPayload b = byteOf (sideCode b.side) :: (boxBytes b.box ++ linesByte b.lines :: leBytes 2 b.tag) := by
    simp [claimPayload]
  have first : (byteOf (sideCode b.side)).toNat = sideCode b.side := byteOf_fits (by omega)
  have side : sideOfBit (bitAt (sideCode b.side) 0) = b.side := sideBit_of (by omega)
  simp only [claimOfPayload, if_pos length]
  simp only [parts, fieldAt_cons, fieldAt_box, fieldAt_byte, boxAt_cons, boxAt_boxBytes box, first, side,
    linesOfValue_linesByte lines, fieldAt_leBytes_last tag]
  exact if_pos (boxOrdered_of_wf box)

theorem askOfPayload_sent {b : AskBody} (wf : b.box.wf = true) : askOfPayload (askPayload b) = some b := by
  have code := sideCode_le b.side
  have length : (askPayload b).length = 11 := by simp [askPayload, boxBytes_length]
  have parts : askPayload b = byteOf (sideCode b.side) :: (boxBytes b.box ++ []) := by simp [askPayload]
  have first : (byteOf (sideCode b.side)).toNat = sideCode b.side := byteOf_fits (by omega)
  have side : sideOfBit (bitAt (sideCode b.side) 0) = b.side := sideBit_of (by omega)
  have box : boxAt (askPayload b) 1 = b.box := by rw [parts, boxAt_cons, boxAt_boxBytes wf]
  rw [askOfPayload, if_pos ⟨length, by rw [box]; exact boxOrdered_of_wf wf⟩, box, parts, fieldAt_byte, first, side]

theorem touchOfPayload_sent {b : TouchBody} (wf : b.wf = true) : touchOfPayload (touchPayload b) = some b := by
  simp only [TouchBody.wf, Pos.wf, Bool.and_eq_true, decide_eq_true_eq, fits_iff] at wf
  obtain ⟨⟨⟨fitsX, fitsY⟩, height⟩, tag⟩ := wf
  have code := sideCode_le b.side
  have role : roleCode b.role ≤ 2 := by rcases b.role with _ | _ | _ <;> decide
  have length : (touchPayload b).length = 10 := by simp [touchPayload, posBytes_length]
  have parts : touchPayload b =
      byteOf (sideCode b.side + 2 * roleCode b.role) :: (posBytes b.pad ++ (leBytes 2 b.height ++ leBytes 2 b.tag)) := by
    simp [touchPayload]
  have first : (byteOf (sideCode b.side + 2 * roleCode b.role)).toNat = sideCode b.side + 2 * roleCode b.role :=
    byteOf_fits (by omega)
  have side : sideOfBit (bitAt (sideCode b.side + 2 * roleCode b.role) 0) = b.side := sideBit_of (by omega)
  have coded : (sideCode b.side + 2 * roleCode b.role) / 2 % 4 = roleCode b.role := by omega
  simp only [touchOfPayload, if_pos length]
  simp only [parts, fieldAt_cons, fieldAt_pos, fieldAt_two, fieldAt_byte, posAt_cons, posAt_posBytes fitsX fitsY, first, side,
    coded, roleOfCode_roleCode, fieldAt_leBytes height, fieldAt_leBytes_last tag]

theorem pairOfPayload_sent (op : PairOp) {reason tag : Nat} (known : reason < 256) (fits : tag < 256 ^ 2) :
    pairOfPayload (pairPayload op reason tag) = some (op, reason, tag) := by
  have length : (pairPayload op reason tag).length = 4 := by simp [pairPayload]
  have parts : pairPayload op reason tag = byteOf (pairOpCode op) :: byteOf reason :: leBytes 2 tag := rfl
  have first : (byteOf (pairOpCode op)).toNat = pairOpCode op := by cases op <;> rfl
  have operation : [none, some PairOp.joined, some .done, some .abandon][pairOpCode op]?.join = some op := by
    cases op <;> rfl
  simp only [pairOfPayload, if_pos length]
  simp only [parts, fieldAt_cons, fieldAt_byte, first, operation, byteOf_fits known, fieldAt_leBytes_last fits]

theorem optBoxAt_next (b : Option Box) (p : List Byte) (present : Bool) (off : Nat) :
    optBoxAt (optBoxBytes b ++ p) present (off + 10) = optBoxAt p present off := optBoxAt_skip (optBoxBytes_length b) p present off

theorem fieldAt_optBox (b : Option Box) (p : List Byte) (off len : Nat) :
    fieldAt (optBoxBytes b ++ p) (off + 10) len = fieldAt p off len := fieldAt_skip (optBoxBytes_length b) p off len

/-- The first byte of a BEACON. -/
def beaconFlags (b : BeaconBody) : Nat :=
  sideCode b.side + flagBit b.landed 1 + flagBit b.atHaven 2 + flagBit b.blocked 3 + flagBit b.waiting 4 +
    flagBit b.reach.isSome 5 + flagBit b.held.isSome 6

theorem beaconFlags_bits (b : BeaconBody) : beaconFlags b < 256 ∧ sideOfBit (bitAt (beaconFlags b) 0) = b.side ∧
    bitAt (beaconFlags b) 1 = b.landed ∧ bitAt (beaconFlags b) 2 = b.atHaven ∧ bitAt (beaconFlags b) 3 = b.blocked ∧
    bitAt (beaconFlags b) 4 = b.waiting ∧ bitAt (beaconFlags b) 5 = b.reach.isSome ∧
    bitAt (beaconFlags b) 6 = b.held.isSome := by
  have := sideCode_le b.side; have := b.landed.toNat_le; have := b.atHaven.toNat_le; have := b.blocked.toNat_le
  have := b.waiting.toNat_le; have := b.reach.isSome.toNat_le; have := b.held.isSome.toNat_le
  simp only [beaconFlags, flagBit_eq]
  refine ⟨?_, sideBit_of ?_, bitAt_of ?_, bitAt_of ?_, bitAt_of ?_, bitAt_of ?_, bitAt_of ?_, bitAt_of ?_⟩ <;> omega

theorem beaconOfPayload_sent {b : BeaconBody} (wf : b.wf = true) : beaconOfPayload (beaconPayload b) = some b := by
  simp only [BeaconBody.wf, Bool.and_eq_true, Bool.not_eq_true', decide_eq_false_iff_not, fits_iff] at wf
  obtain ⟨⟨⟨⟨⟨⟨⟨mode, reach⟩, held⟩, lines⟩, front⟩, list⟩, queue⟩, ask⟩ := wf
  obtain ⟨small, side, landed, atHaven, blocked, waiting, hasReach, hasHeld⟩ := beaconFlags_bits b
  have length : (beaconPayload b).length = 30 := by simp [beaconPayload, optBoxBytes_length]
  have parts : beaconPayload b = byteOf (beaconFlags b) :: byteOf (modeCode b.mode) :: byteOf (reasonCode b.stop) ::
      (optBoxBytes b.reach ++ (optBoxBytes b.held ++ (linesByte b.lines ::
      (leBytes 2 b.frontTag ++ (leBytes 2 b.listCount ++ [byteOf b.queueCount, byteOf b.askTarget]))))) := by
    simp [beaconPayload, beaconFlags]
  have modes : (byteOf (modeCode b.mode)).toNat = modeCode b.mode := by cases b.mode <;> rfl
  have stops : (byteOf (reasonCode b.stop)).toNat = reasonCode b.stop := by cases b.stop <;> rfl
  simp only [beaconOfPayload, if_pos length]
  simp only [parts, fieldAt_cons, fieldAt_optBox, fieldAt_two, fieldAt_byte, optBoxAt_cons, optBoxAt_next, byteOf_fits small, side,
    landed, atHaven, blocked, waiting, hasReach, hasHeld, optBoxAt_optBoxBytes reach, optBoxAt_optBoxBytes held,
    linesOfValue_linesByte lines, modes, stops, modeOfCode_modeCode mode, reasonOfCode_reasonCode, fieldAt_leBytes front,
    fieldAt_leBytes list, byteOf_fits queue, byteOf_fits ask]

/-! ### LOAD -/

theorem fieldAt_four (v : Nat) (p : List Byte) (off len : Nat) : fieldAt (leBytes 4 v ++ p) (off + 4) len = fieldAt p off len :=
  fieldAt_skip (leBytes_length 4 v) p off len

theorem posAt_two (v : Nat) (p : List Byte) (off : Nat) : posAt (leBytes 2 v ++ p) (off + 2) = posAt p off :=
  posAt_skip (leBytes_length 2 v) p off

theorem loadRecordBytes_length (r : LoadRecord) : (loadRecordBytes r).length = 22 := by
  simp [loadRecordBytes, posBytes_length]

theorem loadRecordAt_skip {a : List Byte} {n : Nat} (length : a.length = n) (p : List Byte) (off : Nat) :
    loadRecordAt (a ++ p) (off + n) = loadRecordAt p off := by
  simp only [loadRecordAt, Nat.add_right_comm off n, fieldAt_skip length, posAt_skip length]

/-- The third byte of a LOAD's record. -/
def recordFlags (r : LoadRecord) : Nat :=
  r.kindCode % 8 + 8 * (r.roleCode % 4) + flagBit r.hintPresent 5 + flagBit r.approachPresent 6

theorem recordFlags_bits {r : LoadRecord} (kind : r.kindCode < 8) (role : r.roleCode < 4) : recordFlags r < 256 ∧
    recordFlags r % 8 = r.kindCode ∧ recordFlags r / 8 % 4 = r.roleCode ∧ bitAt (recordFlags r) 5 = r.hintPresent ∧
    bitAt (recordFlags r) 6 = r.approachPresent := by
  have := r.hintPresent.toNat_le; have := r.approachPresent.toNat_le
  simp only [recordFlags, flagBit_eq]
  refine ⟨?_, ?_, ?_, bitAt_of ?_, bitAt_of ?_⟩ <;> omega

theorem loadRecordAt_sent {r : LoadRecord} (wf : r.wf = true) (rest : List Byte) :
    loadRecordAt (loadRecordBytes r ++ rest) 0 = r := by
  simp only [LoadRecord.wf, Pos.wf, Bool.and_eq_true, decide_eq_true_eq, fits_iff] at wf
  obtain ⟨⟨⟨⟨⟨⟨⟨⟨⟨id, kind⟩, role⟩, partner⟩, tag⟩, fitsX, fitsY⟩, low⟩, high⟩, hint⟩, approach⟩ := wf
  obtain ⟨small, kinds, roles, hinted, approached⟩ := recordFlags_bits kind role
  have parts : loadRecordBytes r ++ rest = leBytes 2 r.touchId ++ (byteOf (recordFlags r) :: byteOf r.partner ::
      (leBytes 2 r.tag ++ (posBytes r.pad ++ (leBytes 4 r.low ++ (leBytes 4 r.high ++ (byteOf r.hint ::
      (leBytes 2 r.approach ++ rest))))))) := by
    simp [loadRecordBytes, recordFlags]
  rw [parts]
  simp only [loadRecordAt, Nat.zero_add, fieldAt_leBytes id, fieldAt_two, fieldAt_cons, fieldAt_byte, fieldAt_pos, fieldAt_four,
    posAt_two, posAt_cons, byteOf_fits small, kinds, roles, hinted, approached, byteOf_fits partner, fieldAt_leBytes tag,
    posAt_posBytes fitsX fitsY, fieldAt_leBytes low, fieldAt_leBytes high, byteOf_fits hint, fieldAt_leBytes approach]

theorem loadOfPayload_sent {rs : List LoadRecord} (wf : loadWf rs = true) :
    loadOfPayload (loadPayload rs) = some rs ∧ (loadPayload rs).length ≤ 60 := by
  simp only [loadWf, Bool.and_eq_true, Bool.or_eq_true, decide_eq_true_eq, List.all_eq_true] at wf
  obtain ⟨one | two, records⟩ := wf
  · obtain ⟨a, rfl⟩ := List.length_eq_one_iff.1 one
    have parts : loadPayload [a] = byteOf 1 :: (loadRecordBytes a ++ []) := by simp [loadPayload]
    have length : (loadPayload [a]).length = 23 := by rw [parts]; simp [loadRecordBytes_length]
    have count : fieldAt (loadPayload [a]) 0 1 = 1 := fieldAt_byte _ _
    have first : loadRecordAt (loadPayload [a]) 1 = a := by
      rw [parts]
      exact (loadRecordAt_skip (a := [byteOf 1]) rfl _ 0).trans (loadRecordAt_sent (records a (by simp)) _)
    exact ⟨by rw [loadOfPayload, if_pos ⟨length, count⟩, first], by omega⟩
  · obtain ⟨a, b, rfl⟩ := List.length_eq_two.1 two
    have parts : loadPayload [a, b] = byteOf 2 :: (loadRecordBytes a ++ (loadRecordBytes b ++ [])) := by simp [loadPayload]
    have length : (loadPayload [a, b]).length = 45 := by rw [parts]; simp [loadRecordBytes_length]
    have count : fieldAt (loadPayload [a, b]) 0 1 = 2 := fieldAt_byte _ _
    have first : loadRecordAt (loadPayload [a, b]) 1 = a := by
      rw [parts]
      exact (loadRecordAt_skip (a := [byteOf 2]) rfl _ 0).trans (loadRecordAt_sent (records a (by simp)) _)
    have second : loadRecordAt (loadPayload [a, b]) 23 = b := by
      rw [parts]
      exact (loadRecordAt_skip (a := [byteOf 2]) rfl _ 22).trans
        ((loadRecordAt_skip (loadRecordBytes_length a) _ 0).trans (loadRecordAt_sent (records b (by simp)) _))
    refine ⟨?_, by omega⟩
    rw [loadOfPayload, if_neg (by omega), if_pos ⟨length, count⟩, first, second]

/-! ### Payloads without a meaning (R195) -/

/-- The bounds of the box at `off` are not in order. -/
def Crossed (p : List Byte) (off : Nat) : Prop :=
  fieldAt p (off + 5) 5 % 1048576 < fieldAt p off 5 % 1048576 ∨ fieldAt p (off + 5) 5 / 1048576 < fieldAt p off 5 / 1048576

theorem boxOrdered_iff (p : List Byte) (off : Nat) : boxOrdered (boxAt p off) = true ↔ ¬ Crossed p off := by
  rw [boxOrdered, Bool.and_eq_true, decide_eq_true_eq, decide_eq_true_eq, Crossed, not_or, Nat.not_lt, Nat.not_lt]
  rfl

/-- A lines byte with a nibble that names no line, or with one line named twice. -/
def MeansNoLines (v : Nat) : Prop := 4 < v % 16 ∨ 4 < v / 16 ∨ (v % 16 = v / 16 ∧ v ≠ 0)

theorem lineOfCode_eq_none {c : Nat} : lineOfCode c = none ↔ 4 < c := by
  unfold lineOfCode
  rcases c with _ | _ | _ | _ | _ | c <;> simp

theorem lineCode_of_lineOfCode {c : Nat} {l : Option Line} (h : lineOfCode c = some l) : lineCode l = c := by
  have small : ¬ 4 < c := fun big => by rw [lineOfCode_eq_none.2 big] at h; cases h
  unfold lineOfCode at h
  rcases c with _ | _ | _ | _ | _ | c
  case succ.succ.succ.succ.succ => omega
  all_goals cases h; rfl

theorem lineCode_inj {l l' : Option Line} (h : lineCode l = lineCode l') : l = l' :=
  Option.some.inj ((lineOfCode_lineCode l).symm.trans ((congrArg lineOfCode h).trans (lineOfCode_lineCode l')))

theorem rolesDistinct_eq_false {f r : Option Line} : rolesDistinct ⟨f, r⟩ = false ↔ f = r ∧ lineCode f ≠ 0 := by
  simp only [rolesDistinct, Bool.or_eq_false_iff, Option.isNone_eq_false_iff, Bool.not_eq_false', decide_eq_true_eq]
  rcases f with _ | _ | _ | _ | _ <;> simp [lineCode, lineNumber]

theorem linesOfValue_eq_none {v : Nat} : linesOfValue v = none ↔ MeansNoLines v := by
  cases force : lineOfCode (v % 16) with
  | none =>
    simp only [linesOfValue, force, true_iff]
    exact .inl (lineOfCode_eq_none.1 force)
  | some f =>
    cases ret : lineOfCode (v / 16) with
    | none =>
      simp only [linesOfValue, force, ret, true_iff]
      exact .inr (.inl (lineOfCode_eq_none.1 ret))
    | some r =>
      have low := lineCode_of_lineOfCode force
      have high := lineCode_of_lineOfCode ret
      have four := lineCode_le f
      have four' := lineCode_le r
      have refused : linesOfValue v = none ↔ rolesDistinct ⟨f, r⟩ = false := by
        simp only [linesOfValue, force, ret]
        cases rolesDistinct ⟨f, r⟩ <;> simp
      rw [refused, rolesDistinct_eq_false, MeansNoLines]
      constructor
      · rintro ⟨rfl, named⟩
        exact .inr (.inr ⟨by omega, by omega⟩)
      · rintro (big | big | ⟨same, named⟩)
        · omega
        · omega
        · exact ⟨lineCode_inj (by omega), by omega⟩

theorem if_none_iff {α : Type} {c : Prop} [Decidable c] {o : Option α} : (if c then o else none) = none ↔ ¬ c ∨ o = none := by
  split <;> simp [*]

theorem releaseOfPayload_eq_none {p : List Byte} : releaseOfPayload p = none ↔
    p.length ≠ 13 ∨ Crossed p 1 ∨ MeansNoLines (fieldAt p 11 1) := by
  rw [releaseOfPayload, if_none_iff, ← linesOfValue_eq_none]
  cases linesOfValue (fieldAt p 11 1) with
  | none => simp
  | some lines => simp only [if_none_iff, boxOrdered_iff, not_not, reduceCtorEq, or_false]

theorem askOfPayload_eq_none {p : List Byte} : askOfPayload p = none ↔ p.length ≠ 11 ∨ Crossed p 1 := by
  rw [askOfPayload, if_none_iff, boxOrdered_iff, not_and_or, not_not]
  simp

theorem claimOfPayload_eq_none {p : List Byte} : claimOfPayload p = none ↔
    p.length ≠ 14 ∨ Crossed p 1 ∨ MeansNoLines (fieldAt p 11 1) := by
  rw [claimOfPayload, if_none_iff, ← linesOfValue_eq_none]
  cases linesOfValue (fieldAt p 11 1) with
  | none => simp
  | some lines => simp only [if_none_iff, boxOrdered_iff, not_not, reduceCtorEq, or_false]

theorem touchOfPayload_eq_none {p : List Byte} : touchOfPayload p = none ↔ p.length ≠ 10 ∨ fieldAt p 0 1 / 2 % 4 = 3 := by
  rw [touchOfPayload, if_none_iff]
  have four : fieldAt p 0 1 / 2 % 4 < 4 := Nat.mod_lt _ (by decide)
  generalize fieldAt p 0 1 / 2 % 4 = code at four ⊢
  rcases code with _ | _ | _ | _ | code
  case succ.succ.succ.succ => omega
  all_goals simp [roleOfCode]

theorem pairOfPayload_eq_none {p : List Byte} : pairOfPayload p = none ↔ p.length ≠ 4 ∨ fieldAt p 0 1 ∉ [1, 2, 3] := by
  rw [pairOfPayload, if_none_iff]
  generalize fieldAt p 0 1 = code
  rcases code with _ | _ | _ | _ | code <;> simp

theorem modeOfCode_eq_none {c : Nat} : modeOfCode c = none ↔ c ∉ [1, 2, 3, 4, 5, 6] := by
  rcases c with _ | _ | _ | _ | _ | _ | _ | c <;> simp [modeOfCode]

theorem reasonOfCode_eq_none {c : Nat} : reasonOfCode c = none ↔ 7 < c := by
  rcases c with _ | _ | _ | _ | _ | _ | _ | _ | c <;> simp [reasonOfCode]

theorem optBoxAt_eq_none {p : List Byte} {present : Bool} {off : Nat} :
    optBoxAt p present off = none ↔ present = true ∧ Crossed p off := by
  cases present with
  | false => simp [optBoxAt]
  | true => simp only [optBoxAt, if_true, if_none_iff, boxOrdered_iff, not_not, reduceCtorEq, or_false, true_and]

theorem beaconOfPayload_eq_none {p : List Byte} : beaconOfPayload p = none ↔ p.length ≠ 30 ∨
    fieldAt p 1 1 ∉ [1, 2, 3, 4, 5, 6] ∨ 7 < fieldAt p 2 1 ∨ (fieldAt p 0 1 / 32 % 2 = 1 ∧ Crossed p 3) ∨
    (fieldAt p 0 1 / 64 % 2 = 1 ∧ Crossed p 13) ∨ MeansNoLines (fieldAt p 23 1) := by
  have bit5 : bitAt (fieldAt p 0 1) 5 = true ↔ fieldAt p 0 1 / 32 % 2 = 1 := decide_eq_true_iff
  have bit6 : bitAt (fieldAt p 0 1) 6 = true ↔ fieldAt p 0 1 / 64 % 2 = 1 := decide_eq_true_iff
  rw [beaconOfPayload, if_none_iff, ← modeOfCode_eq_none, ← reasonOfCode_eq_none, ← bit5, ← bit6, ← optBoxAt_eq_none,
    ← optBoxAt_eq_none, ← linesOfValue_eq_none]
  refine or_congr_right ?_
  dsimp only
  cases modeOfCode (fieldAt p 1 1) <;> simp only [true_or, reduceCtorEq, false_or]
  cases reasonOfCode (fieldAt p 2 1) <;> simp only [true_or, reduceCtorEq, false_or]
  cases optBoxAt p (bitAt (fieldAt p 0 1) 5) 3 <;> simp only [true_or, reduceCtorEq, false_or]
  cases optBoxAt p (bitAt (fieldAt p 0 1) 6) 13 <;> simp only [true_or, reduceCtorEq, false_or]
  cases linesOfValue (fieldAt p 23 1) <;> simp only [reduceCtorEq]

theorem loadOfPayload_eq_none {p : List Byte} : loadOfPayload p = none ↔
    ¬ (fieldAt p 0 1 ∈ [1, 2] ∧ p.length = 1 + 22 * fieldAt p 0 1) := by
  unfold loadOfPayload
  split_ifs with one two
  · simp [one.1, one.2]
  · simp [two.1, two.2]
  · simp only [true_iff, List.mem_cons, List.not_mem_nil, or_false]
    rintro ⟨rfl' | rfl', length⟩ <;> rw [rfl'] at length <;> omega

/-! ### The rows of heard frames -/

theorem elim_malformed {α : Type} {o : Option α} {e : Surroundings} {hdr : Header} {f : α → Instr}
    (other : ∀ a, f a ≠ .malformedFrame e.dt hdr) : o.elim (.malformedFrame e.dt hdr) f = .malformedFrame e.dt hdr ↔ o = none := by
  cases o with
  | none => simp
  | some a => simpa using other a

theorem pairRow_malformed {e : Surroundings} {hdr : Header} {target : Station} {p : List Byte} :
    payloadRow e .pair hdr target p = .malformedFrame e.dt hdr ↔ pairOfPayload p = none := by
  rw [payloadRow]
  rcases pairOfPayload p with _ | ⟨_ | _ | _, _, _⟩ <;> simp

/-- A COMMAND's payload of one byte is the row of its code. -/
theorem command_heard {own : Station} (e : Surroundings) (seq : Seq) (target : Station) (code : Byte) (head : own ≠ 0) :
    frameRow own e (hearBits (sendBits (frameBytes 6 0 seq target [code]))) = commandRow e target code :=
  frameRow_sent e seq target (kind := .command) rfl (by decide) (by simp) (Ne.symm head) rfl

theorem commandRow_unknown {e : Surroundings} {target : Station} {code : Byte} (unknown : unknownCode code = true) :
    commandRow e target code = .unknownCommand e.dt target code := by
  simp only [unknownCode, Bool.or_eq_true, decide_eq_true_eq] at unknown
  unfold commandRow
  split <;> first | rfl | omega

/-- A head's frame is heard as its payload says. -/
theorem head_heard {own : Station} (e : Surroundings) {h : Header} {code : Nat} {kind : FrameKind} (target : Station)
    {payload : List Byte} (assigned : kindOfCode code = some kind) (small : code < 16) (short : payload.length ≤ 60)
    (other : h.sender ≠ own) (head : (!decide (h.sender = 0)) = true)
    (heads : senderValid kind h.sender = !decide (h.sender = 0)) :
    frameRow own e (hearBits (sendBits (frameBytes code h.sender h.seq target payload))) = payloadRow e kind h target payload :=
  frameRow_sent e h.seq target assigned small short other (heads.trans head)

/-- What the row of a heard frame asks of the station that hears it: a frame of another number, and the pins and the
carriage as a reset finds them. -/
def Foreign (own : Station) (e : Surroundings) : Instr → Prop
  | .beaconReceived _ h _ | .claimReceived _ h _ | .releaseReceived _ h _ | .askReceived _ h _ _ | .touchReceived _ h _
  | .joinedReceived _ h _ _ | .doneReceived _ h _ _ | .abandonReceived _ h _ _ _ => h.sender ≠ own
  | .reset _ _ straps reading => straps = e.straps ∧ reading = e.reading
  | _ => True

/-- What a station sends is heard as the row that stands for it. -/
theorem rowFrame_heard {own : Station} {e : Surroundings} {seq : Seq} {row : Instr} {bytes : List Byte} (head : own ≠ 0)
    (wf : row.wf = true) (frame : rowFrame seq row = some bytes) (time : rowTime row = e.dt) (foreign : Foreign own e row) :
    frameRow own e (hearBits (sendBits bytes)) = row := by
  cases row with
  | beaconReceived dt h b =>
    obtain ⟨rfl, rfl⟩ : dt = e.dt ∧ _ = bytes := ⟨time, Option.some.inj frame⟩
    obtain ⟨sender, body⟩ := Bool.and_eq_true_iff.1 wf
    have short : (beaconPayload b).length ≤ 60 := by simp [beaconPayload, optBoxBytes_length]
    rw [head_heard e 0 (kind := .beacon) rfl (by decide) short foreign sender rfl, payloadRow, beaconOfPayload_sent body]
    rfl
  | claimReceived dt h b =>
    obtain ⟨rfl, rfl⟩ : dt = e.dt ∧ _ = bytes := ⟨time, Option.some.inj frame⟩
    obtain ⟨sender, body⟩ := Bool.and_eq_true_iff.1 wf
    have short : (claimPayload b).length ≤ 60 := by simp [claimPayload, boxBytes_length]
    rw [head_heard e 0 (kind := .claim) rfl (by decide) short foreign sender rfl, payloadRow, claimOfPayload_sent body]
    rfl
  | releaseReceived dt h b =>
    obtain ⟨rfl, rfl⟩ : dt = e.dt ∧ _ = bytes := ⟨time, Option.some.inj frame⟩
    obtain ⟨sender, body⟩ := Bool.and_eq_true_iff.1 wf
    have short : (releasePayload b).length ≤ 60 := by simp [releasePayload, boxBytes_length]
    rw [head_heard e 0 (kind := .release) rfl (by decide) short foreign sender rfl, payloadRow, releaseOfPayload_sent body]
    rfl
  | askReceived dt h target b =>
    obtain ⟨rfl, rfl⟩ : dt = e.dt ∧ _ = bytes := ⟨time, Option.some.inj frame⟩
    obtain ⟨sender, body⟩ := Bool.and_eq_true_iff.1 wf
    have short : (askPayload b).length ≤ 60 := by simp [askPayload, boxBytes_length]
    rw [head_heard e target (kind := .ask) rfl (by decide) short foreign sender rfl, payloadRow, askOfPayload_sent body]
    rfl
  | touchReceived dt h b =>
    obtain ⟨rfl, rfl⟩ : dt = e.dt ∧ _ = bytes := ⟨time, Option.some.inj frame⟩
    obtain ⟨sender, body⟩ := Bool.and_eq_true_iff.1 wf
    have short : (touchPayload b).length ≤ 60 := by simp [touchPayload, posBytes_length]
    rw [head_heard e 0 (kind := .touch) rfl (by decide) short foreign sender rfl, payloadRow, touchOfPayload_sent body]
    rfl
  | joinedReceived dt h target tag =>
    obtain ⟨rfl, rfl⟩ : dt = e.dt ∧ _ = bytes := ⟨time, Option.some.inj frame⟩
    obtain ⟨sender, tags⟩ := Bool.and_eq_true_iff.1 wf
    rw [head_heard e target (kind := .pair) rfl (by decide) (by simp [pairPayload]) foreign sender rfl, payloadRow,
      pairOfPayload_sent .joined (by decide) (fits_iff.1 tags)]
  | doneReceived dt h target tag =>
    obtain ⟨rfl, rfl⟩ : dt = e.dt ∧ _ = bytes := ⟨time, Option.some.inj frame⟩
    obtain ⟨sender, tags⟩ := Bool.and_eq_true_iff.1 wf
    rw [head_heard e target (kind := .pair) rfl (by decide) (by simp [pairPayload]) foreign sender rfl, payloadRow,
      pairOfPayload_sent .done (by decide) (fits_iff.1 tags)]
  | abandonReceived dt h target reason tag =>
    obtain ⟨rfl, rfl⟩ : dt = e.dt ∧ _ = bytes := ⟨time, Option.some.inj frame⟩
    obtain ⟨named, tags⟩ := Bool.and_eq_true_iff.1 wf
    obtain ⟨sender, reasons⟩ := Bool.and_eq_true_iff.1 named
    rw [head_heard e target (kind := .pair) rfl (by decide) (by simp [pairPayload]) foreign sender rfl, payloadRow,
      pairOfPayload_sent .abandon (fits_iff.1 reasons) (fits_iff.1 tags)]
  | loadReceived dt target rs =>
    obtain ⟨rfl, rfl⟩ : dt = e.dt ∧ _ = bytes := ⟨time, Option.some.inj frame⟩
    obtain ⟨records, short⟩ := loadOfPayload_sent wf
    rw [frameRow_sent e seq target (kind := .load) rfl (by decide) short (Ne.symm head) rfl, payloadRow, records]
    rfl
  | halt dt target =>
    obtain ⟨rfl, rfl⟩ : dt = e.dt ∧ _ = bytes := ⟨time, Option.some.inj frame⟩
    exact frameRow_sent e seq target (kind := .halt) rfl (by decide) (by simp) (Ne.symm head) rfl
  | start dt target =>
    obtain ⟨rfl, rfl⟩ : dt = e.dt ∧ _ = bytes := ⟨time, Option.some.inj frame⟩
    exact command_heard e seq target (byteOf 1) head
  | pause dt target =>
    obtain ⟨rfl, rfl⟩ : dt = e.dt ∧ _ = bytes := ⟨time, Option.some.inj frame⟩
    exact command_heard e seq target (byteOf 2) head
  | clear dt target =>
    obtain ⟨rfl, rfl⟩ : dt = e.dt ∧ _ = bytes := ⟨time, Option.some.inj frame⟩
    exact command_heard e seq target (byteOf 3) head
  | purge dt target =>
    obtain ⟨rfl, rfl⟩ : dt = e.dt ∧ _ = bytes := ⟨time, Option.some.inj frame⟩
    exact command_heard e seq target (byteOf 4) head
  | park dt target =>
    obtain ⟨rfl, rfl⟩ : dt = e.dt ∧ _ = bytes := ⟨time, Option.some.inj frame⟩
    exact command_heard e seq target (byteOf 5) head
  | query dt target =>
    obtain ⟨rfl, rfl⟩ : dt = e.dt ∧ _ = bytes := ⟨time, Option.some.inj frame⟩
    exact command_heard e seq target (byteOf 6) head
  | reset dt target straps reading =>
    obtain ⟨rfl, rfl⟩ : dt = e.dt ∧ _ = bytes := ⟨time, Option.some.inj frame⟩
    obtain ⟨rfl, rfl⟩ := foreign
    exact command_heard e seq target (byteOf 7) head
  | unknownCommand dt target code =>
    obtain ⟨rfl, rfl⟩ : dt = e.dt ∧ _ = bytes := ⟨time, Option.some.inj frame⟩
    rw [command_heard e seq target code head, commandRow_unknown wf]
  | _ => cases frame

/-! ### The judgement of a frame by its kind, sender and payload -/

/-- The kinds that station 0 sends. -/
theorem stationKind {code : Nat} (codes : code ∈ [0, 6, 9]) :
    ∃ k, kindOfCode code = some k ∧ ∀ sender, senderValid k sender = decide (sender = 0) := by
  simp only [List.mem_cons, List.not_mem_nil, or_false] at codes
  rcases codes with rfl | rfl | rfl
  · exact ⟨.halt, rfl, fun _ => rfl⟩
  · exact ⟨.command, rfl, fun _ => rfl⟩
  · exact ⟨.load, rfl, fun _ => rfl⟩

/-- The kinds that a head sends. -/
theorem headKind {code : Nat} (codes : code ∈ [1, 2, 3, 4, 5, 7, 8, 10]) :
    ∃ k, kindOfCode code = some k ∧ ∀ sender, senderValid k sender = !decide (sender = 0) := by
  simp only [List.mem_cons, List.not_mem_nil, or_false] at codes
  rcases codes with rfl | rfl | rfl | rfl | rfl | rfl | rfl | rfl <;> exact ⟨_, rfl, fun _ => rfl⟩

section
variable {e : Surroundings} {hdr : Header} {target : Station} {p : List Byte}

theorem haltRow_malformed : payloadRow e .halt hdr target p = .malformedFrame e.dt hdr ↔ p.length ≠ 0 := by
  rw [payloadRow]; split <;> simp [*]

theorem commandRow_wellFormed (code : Byte) : commandRow e target code ≠ .malformedFrame e.dt hdr := by
  unfold commandRow; split <;> simp

theorem commandRow_malformed : payloadRow e .command hdr target p = .malformedFrame e.dt hdr ↔ p.length ≠ 1 := by
  rcases p with _ | ⟨code, _ | ⟨b, rest⟩⟩
  · simp [payloadRow]
  · simpa [payloadRow] using commandRow_wellFormed code
  · simp [payloadRow]

theorem loadRow_malformed : payloadRow e .load hdr target p = .malformedFrame e.dt hdr ↔
    ¬ (fieldAt p 0 1 ∈ [1, 2] ∧ p.length = 1 + 22 * fieldAt p 0 1) :=
  (elim_malformed (by simp)).trans loadOfPayload_eq_none

theorem releaseRow_malformed : payloadRow e .release hdr target p = .malformedFrame e.dt hdr ↔
    p.length ≠ 13 ∨ Crossed p 1 ∨ MeansNoLines (fieldAt p 11 1) := (elim_malformed (by simp)).trans releaseOfPayload_eq_none

theorem askRow_malformed : payloadRow e .ask hdr target p = .malformedFrame e.dt hdr ↔ p.length ≠ 11 ∨ Crossed p 1 :=
  (elim_malformed (by simp)).trans askOfPayload_eq_none

theorem claimRow_malformed : payloadRow e .claim hdr target p = .malformedFrame e.dt hdr ↔
    p.length ≠ 14 ∨ Crossed p 1 ∨ MeansNoLines (fieldAt p 11 1) := (elim_malformed (by simp)).trans claimOfPayload_eq_none

theorem touchRow_malformed : payloadRow e .touch hdr target p = .malformedFrame e.dt hdr ↔
    p.length ≠ 10 ∨ fieldAt p 0 1 / 2 % 4 = 3 := (elim_malformed (by simp)).trans touchOfPayload_eq_none

theorem beaconRow_malformed : payloadRow e .beacon hdr target p = .malformedFrame e.dt hdr ↔ p.length ≠ 30 ∨
    fieldAt p 1 1 ∉ [1, 2, 3, 4, 5, 6] ∨ 7 < fieldAt p 2 1 ∨ (fieldAt p 0 1 / 32 % 2 = 1 ∧ Crossed p 3) ∨
    (fieldAt p 0 1 / 64 % 2 = 1 ∧ Crossed p 13) ∨ MeansNoLines (fieldAt p 23 1) :=
  (elim_malformed (by simp)).trans beaconOfPayload_eq_none

end

/-- Settles O9. -/
theorem framesAreHeardAsSent : Obligations.FramesAreHeardAsSent := by
  refine ⟨fun own e seq row bytes head wf frame time foreign =>
      rowFrame_heard head wf frame time (by cases row <;> exact foreign),
    fun b0 b1 len rest long => hearBits_long long rest, fun b0 b1 c0 c1 payload short => ⟨?_, ?_, ?_, ?_⟩, ?_⟩
  · exact fun check => (hearBits_frame short).trans (if_pos check)
  · exact fun wrong => (hearBits_frame short).trans (if_neg wrong)
  · exact fun n early => hearBits_take short early
  · exact fun k rest inside => hearBits_recessive short rest inside
  intro own sender e seq code target payload small aim short row
  have judged := frameRow_passed own e sender seq payload small aim
  have valid : ∀ {k}, sender ≠ own → kindOfCode code = some k → senderValid k sender = true →
      row = payloadRow e k ⟨sender, seq⟩ (Fin.ofNat 16 target) payload := fun other assigned valid =>
    judged.trans (by rw [if_neg other, assigned, Option.elim_some, if_pos valid])
  have invalid : ∀ {k}, sender ≠ own → kindOfCode code = some k → senderValid k sender = false →
      row = .invalidSenderFrame e.dt ⟨sender, seq⟩ := fun other assigned invalid =>
    judged.trans (by rw [if_neg other, assigned, Option.elim_some, if_neg (Bool.eq_false_iff.1 invalid)])
  refine ⟨rfl, fun same => judged.trans (if_pos same), fun other unassigned => ?_, fun other head codes => ?_,
    fun other station codes => ?_, fun other station codes => ?_, ?_, fun other head => ⟨fun status => ?_, fun result => ?_⟩⟩
  · have none_ : kindOfCode code = none := List.getElem?_eq_none unassigned
    exact judged.trans (by rw [if_neg other, none_, Option.elim_none])
  · obtain ⟨k, assigned, senders⟩ := stationKind codes
    exact invalid other assigned ((senders sender).trans (decide_eq_false head))
  · obtain ⟨k, assigned, senders⟩ := headKind codes
    exact invalid other assigned ((senders sender).trans (by simp [station]))
  · simp only [List.mem_cons, List.not_mem_nil, or_false] at codes
    rcases codes with rfl | rfl | rfl
    · rw [valid (k := .halt) other rfl (decide_eq_true station), haltRow_malformed]
      simp
    · rw [valid (k := .command) other rfl (decide_eq_true station), commandRow_malformed]
      simp
    · rw [valid (k := .load) other rfl (decide_eq_true station), loadRow_malformed]
      simp
  · intro at' crossed noLines other head len codes
    have heads : (!decide (sender = 0)) = true := by simp [head]
    have crossed_iff : ∀ off, crossed off ↔ Crossed payload off := fun _ => Iff.rfl
    have noLines_iff : ∀ off, noLines off ↔ MeansNoLines (fieldAt payload off 1) := fun _ => Iff.rfl
    simp only [List.mem_cons, Prod.mk.injEq, List.not_mem_nil, or_false] at codes
    rcases codes with ⟨rfl, rfl⟩ | ⟨rfl, rfl⟩ | ⟨rfl, rfl⟩ | ⟨rfl, rfl⟩ | ⟨rfl, rfl⟩ | ⟨rfl, rfl⟩
    · rw [valid (k := .release) other rfl heads, releaseRow_malformed]
      simp [crossed_iff, noLines_iff]
    · rw [valid (k := .ask) other rfl heads, askRow_malformed]
      simp [crossed_iff]
    · rw [valid (k := .claim) other rfl heads, claimRow_malformed]
      simp [crossed_iff, noLines_iff]
    · rw [valid (k := .touch) other rfl heads, touchRow_malformed]
      simp [at']
    · rw [valid (k := .pair) other rfl heads, pairRow_malformed, pairOfPayload_eq_none]
      simp [at']
    · rw [valid (k := .beacon) other rfl heads, beaconRow_malformed]
      simp [at', crossed_iff, noLines_iff]
  · subst status
    rw [valid (k := .status) other rfl (by simp [senderValid, head]), payloadRow]
    simp only [statusWellFormed, Bool.and_eq_true, decide_eq_true_eq]
  · subst result
    rw [valid (k := .result) other rfl (by simp [senderValid, head]), payloadRow]
    simp only [resultWellFormed, Bool.and_eq_true, decide_eq_true_eq, and_assoc]

end Sys2Proof.Machine
end
